-- ==== Sys2Proof/Word.lean ====
section
/-! DEFINITION. The words of the block and the plain records its operations carry: the byte and the 16-bit reading
(00_scope.md R7), the operands of a rumble command and the axis tuple (41_packet_encoder.md R121, 42_input_decoder.md R146). -/

namespace Sys2Proof

/-- A byte: every byte-valued quantity is 8 bits, bit 0 the least significant (R7, R10). -/
abbrev Byte := BitVec 8

/-- An axis reading: 16 bits; its signed value is `BitVec.toInt` (R7, R140). -/
abbrev Reading := BitVec 16

/-- A byte sequence, index 0 the first byte (R11). -/
abbrev Bytes := List Byte

/-- The seven operand bytes of a rumble command, in operand order (R70, R121): four motor intensities and the timing. -/
structure RumbleParams where
  /-- left-trigger motor intensity -/
  lt : Byte
  /-- right-trigger motor intensity -/
  rt : Byte
  /-- left-stick motor intensity -/
  ls : Byte
  /-- right-stick motor intensity -/
  rs : Byte
  /-- on-duration -/
  on : Byte
  /-- off-duration -/
  off : Byte
  /-- repeat-count -/
  rep : Byte
  deriving DecidableEq, Repr, Inhabited

/-- The axis tuple, in the order handed downstream: LX, LY, RX, RY, LT, RT (R89, R146). -/
structure AxisTuple where
  lx : Reading
  ly : Reading
  rx : Reading
  ry : Reading
  lt : Reading
  rt : Reading
  deriving DecidableEq, Repr, Inhabited

end Sys2Proof
end

