-- ==== Sys2Proof/Config.lean ====
section
/-! DEFINITION. What an implementation fixes and the spec leaves open (92_eei_decisions.md section 7). The open parameters
are constants with no body: nothing can be proved of their values beyond the constraint the spec gives. -/

namespace Sys2Proof

/-- How far MAX_REPORT_LEN lies above its least value; open (R8, D20). Log 4. -/
opaque Config.reportLenSlack : Nat

/-- MAX_REPORT_LEN, the largest report buffer length: open, but at least 41 (R8, D20). -/
def Config.maxReportLen : Nat := Config.reportLenSlack + 41

/-- MAX_ARGS, the largest argument count of CMD.BUILD (R8, D8). -/
def Config.maxArgs : Nat := 255

/-- The host's POWER_OFF_ARGS and LED_ARGS, not in the source (R174, N2); `Config.powerOffArgs` bounds their length. Log 16. -/
opaque Config.powerOffBytes : Bytes
/-- See `Config.powerOffBytes`. -/
opaque Config.ledBytes : Bytes

/-- POWER_OFF_ARGS: a byte list of length 0 to 255 (92_eei_decisions.md section 7). -/
def Config.powerOffArgs : Bytes := Config.powerOffBytes.take Config.maxArgs
/-- LED_ARGS: a byte list of length 0 to 255 (92_eei_decisions.md section 7). -/
def Config.ledArgs : Bytes := Config.ledBytes.take Config.maxArgs

/-- The host's derivation of rumble parameters from the axis tuple: a parameter of which nothing is assumed (R177, R178).
Log 16. -/
opaque Config.derive : AxisTuple → RumbleParams

/-- The timing bytes of the host's zero rumble command, not in the source (R180, N10). Log 16. -/
opaque Config.zeroRumbleOn : Byte
/-- See `Config.zeroRumbleOn`. -/
opaque Config.zeroRumbleOff : Byte
/-- See `Config.zeroRumbleOn`. -/
opaque Config.zeroRumbleRep : Byte

end Sys2Proof
end

