-- ==== Sys2Proof/Syntax.lean ====
section
/-! DEFINITION. The instructions: one constructor per row of spec/opcode_table.json (30_encoding.md R71, R86, R92, R97,
R76, R84). The table has rows of four formats: requests (REQ), assembler pseudo-instructions (PSEUDO), outbound packet
forms (PKT) and inbound report classes (RPT). -/

namespace Sys2Proof

/-- The rows of the opcode table. Operands are those each operation reads (R72, R96); a PKT row carries the bytes the
build that emits it is given, an RPT row the report's bytes after its type byte (logs 8 and 10). -/
inductive Instr where
  -- REQ: the nine operations (R71)
  | seqNext
  | seqPeek
  | cmdBuild (cmd : Byte) (args : Bytes)
  | rumbleBuild (p : RumbleParams)
  | s16Dec (lo hi : Byte)
  | bitGet (buf : Bytes) (byteIdx : Nat) (bitIdx : BitVec 3)
  | rptClass (buf : Bytes)
  | rptDec (buf : Bytes)
  | sysDec (buf : Bytes)
  -- REQ: the reserved operation codes (R92)
  | reserved9
  | reservedA
  | reservedB
  | reservedC
  | reservedD
  | reservedE
  | reservedF
  -- PSEUDO: assembler names of core requests (R97)
  | rumble (lt rt ls rs : Byte)
  | identify (args : Bytes)
  | power (args : Bytes)
  | auth (args : Bytes)
  | led (args : Bytes)
  -- PKT: the outbound packet forms (R76, R84)
  | pktIdentify (args : Bytes)
  | pktPower (args : Bytes)
  | pktAuthenticate (args : Bytes)
  | pktRumbleGeneric (args : Bytes)
  | pktLed (args : Bytes)
  | pktRumble (p : RumbleParams)
  -- RPT: the inbound report classes (R86); `rptOther` carries the whole report, since it may have no type byte
  | rptInput (rest : Bytes)
  | rptSystem (rest : Bytes)
  | rptIgnored (rest : Bytes)
  | rptOther (buf : Bytes)
  deriving DecidableEq, Repr

end Sys2Proof
end

