-- ==== Sys2Proof/WellFormed.lean ====
section
/-! DEFINITION. Which instructions can be presented at all (30_encoding.md R73, 60_exceptions.md R195). Byte fields and
bit indices out of range are excluded by their types; the lengths are checked here. -/

namespace Sys2Proof

/-- An argument list that `argc` can count: at most MAX_ARGS bytes (R8, R70, R73). -/
def argsOk (args : Bytes) : Bool := decide (args.length ≤ Config.maxArgs)

/-- A report buffer of legal length: at most MAX_REPORT_LEN bytes, no minimum (R42, R73). -/
def bufOk (buf : Bytes) : Bool := decide (buf.length ≤ Config.maxReportLen)

/-- The report has none of the three recognised type bytes; it may have no byte at all (R86). -/
def typeByteUnknown (buf : Bytes) : Bool :=
  match buf with
  | [] => true
  | t :: _ => decide (t ≠ 0x20#8 ∧ t ≠ 0x07#8 ∧ t ≠ 0x03#8)

/-- The instruction can be presented: R73 for a request, the same length bounds for the other formats, and for
`rptOther` that its report is indeed of class OTHER. -/
def Instr.wf (i : Instr) : Bool :=
  match i with
  | .seqNext => true
  | .seqPeek => true
  | .cmdBuild _ args => argsOk args
  | .rumbleBuild _ => true
  | .s16Dec _ _ => true
  | .bitGet buf _ _ => bufOk buf
  | .rptClass buf => bufOk buf
  | .rptDec buf => bufOk buf
  | .sysDec buf => bufOk buf
  | .reserved9 => true
  | .reservedA => true
  | .reservedB => true
  | .reservedC => true
  | .reservedD => true
  | .reservedE => true
  | .reservedF => true
  | .rumble _ _ _ _ => true
  | .identify args => argsOk args
  | .power args => argsOk args
  | .auth args => argsOk args
  | .led args => argsOk args
  | .pktIdentify args => argsOk args
  | .pktPower args => argsOk args
  | .pktAuthenticate args => argsOk args
  | .pktRumbleGeneric args => argsOk args
  | .pktLed args => argsOk args
  | .pktRumble _ => true
  | .rptInput rest => bufOk (0x20#8 :: rest)
  | .rptSystem rest => bufOk (0x07#8 :: rest)
  | .rptIgnored rest => bufOk (0x03#8 :: rest)
  | .rptOther buf => bufOk buf && typeByteUnknown buf

end Sys2Proof
end

