-- ==== Sys2Proof/Decode.lean ====
section
/-! DEFINITION. The encodings: the request record (30_encoding.md R70 to R73), the outbound packet image (R76, R84, R95), the
inbound report (R86); the decoder of each of the three code spaces (R98), and the encoder written from the same tables. -/

namespace Sys2Proof

/-- The request record (R70). Requests are records, not byte strings (R95). -/
structure Request where
  /-- operation select, R71 -/
  op : BitVec 4
  /-- command id, for CMD.BUILD -/
  cmd : Byte
  /-- number of argument bytes -/
  argc : Byte
  /-- the argument bytes, in payload order -/
  args : Bytes
  /-- the fields `lt`, `rt`, `ls`, `rs`, `on`, `off`, `rep`, for RUMBLE.BUILD -/
  motors : RumbleParams
  /-- low byte, for S16.DEC -/
  lo : Byte
  /-- high byte, for S16.DEC -/
  hi : Byte
  /-- length of the report buffer -/
  bufLen : Nat
  /-- the report buffer -/
  buf : Bytes
  /-- byte index, for BIT.GET: an unbounded natural (D13, log 5) -/
  byteIdx : Nat
  /-- bit index, for BIT.GET -/
  bitIdx : BitVec 3
  deriving DecidableEq, Repr

/-- What is presented, in one of the three code spaces (R98): a request by its `op`, a packet image by its first two
bytes, a report by its type byte. -/
inductive Code where
  | request (r : Request)
  | packet (image : Bytes)
  | report (buf : Bytes)
  deriving DecidableEq, Repr

/-- Why something presented is no instruction. Each is a length the ports cannot carry (R73, R195), or bytes that are
the image of no packet form of the table. -/
inductive DecodeError where
  /-- `args` does not hold exactly `argc` bytes (R73) -/
  | argsLength
  /-- `buf` does not hold exactly `buf_len` bytes (R73) -/
  | bufLength
  /-- the report is longer than MAX_REPORT_LEN (R73) -/
  | bufTooLong
  /-- a packet image of another length than its length byte says, or a rumble image of another length than 13 (R80, R95) -/
  | packetLength
  /-- a packet image whose first two bytes are those of no packet form (R76, R81, R82) -/
  | packetForm
  deriving DecidableEq, Repr

/-- The outcome of decoding: an instruction, or a rejection by name. -/
inductive Decoded where
  | ok (i : Instr)
  | rejected (e : DecodeError)
  deriving DecidableEq, Repr

/-- The record all of whose fields are zero or empty. -/
def blankRequest : Request :=
  { op := 0, cmd := 0, argc := 0, args := [], motors := ⟨0, 0, 0, 0, 0, 0, 0⟩, lo := 0, hi := 0, bufLen := 0, buf := [],
    byteIdx := 0, bitIdx := 0 }

/-- The request can be presented: the lengths of the record agree and the report is not too long (R73). -/
def requestPresentable (r : Request) : Bool :=
  decide (r.args.length = r.argc.toNat) && decide (r.buf.length = r.bufLen) && bufOk r.buf

/-! ### Packet images -/

/-- The Command enumeration: Identify, Power, Authenticate, Rumble, LED (R82). -/
def commandIds : List Byte := [0x04#8, 0x05#8, 0x06#8, 0x09#8, 0x0a#8]

/-- The length a reader of a packet tells from byte 3: `total = 4 + pkt[3]` (R95); none where the header is not whole. -/
def packetTotal (bytes : Bytes) : Option Nat := bytes[3]?.map fun n => 4 + n.toNat

/-- The bytes are one packet, no more and no fewer than its length byte says (R80, R95). -/
def packetWhole (image : Bytes) : Bool := decide (packetTotal image = some image.length)

/-- Reading one packet off the front of a byte stream: the packet and what follows it (R95); none while bytes are missing. -/
def readPacket (bytes : Bytes) : Option (Bytes × Bytes) :=
  (packetTotal bytes).bind fun n => if n ≤ bytes.length then some (bytes.take n, bytes.drop n) else none

/-- The bytes are an image of one of the six packet forms: a whole packet with flags 0x20 and a command id of the
enumeration (R81, R82), or a rumble packet, which always has 13 bytes (R84, R95). -/
def isPacketForm (image : Bytes) : Bool :=
  packetWhole image &&
    (decide (image[1]? = some 0x20#8 ∧ ∃ id ∈ commandIds, image[0]? = some id) ||
      decide (image[1]? = some 0x00#8 ∧ image[0]? = some 0x09#8 ∧ image.length = 13))

/-- What can be presented in each code space: R73 for a request; for a packet image, that it is one of a form (logs 8
and 9); for a report its length (R42). -/
def codePresentable (c : Code) : Bool :=
  match c with
  | .request r => requestPresentable r
  | .packet image => isPacketForm image
  | .report buf => bufOk buf

/-- The operation-select table (R71, R92): the operation and the fields it reads (R72); no other field is looked at. -/
def opInstr (r : Request) : Instr :=
  match r.op.toNat with
  | 0x0 => .seqNext
  | 0x1 => .seqPeek
  | 0x2 => .cmdBuild r.cmd r.args
  | 0x3 => .rumbleBuild r.motors
  | 0x4 => .s16Dec r.lo r.hi
  | 0x5 => .bitGet r.buf r.byteIdx r.bitIdx
  | 0x6 => .rptClass r.buf
  | 0x7 => .rptDec r.buf
  | 0x8 => .sysDec r.buf
  | 0x9 => .reserved9
  | 0xA => .reservedA
  | 0xB => .reservedB
  | 0xC => .reservedC
  | 0xD => .reservedD
  | 0xE => .reservedE
  | _ => .reservedF

/-- Decoding a request: the lengths of the record first (R73), then `op` (R71). -/
def decodeRequest (r : Request) : Decoded :=
  if r.args.length ≠ r.argc.toNat then .rejected .argsLength
  else if r.buf.length ≠ r.bufLen then .rejected .bufLength
  else if bufOk r.buf then .ok (opInstr r)
  else .rejected .bufTooLong

/-- The packet forms of flags 0x20, by command id (R81, R82); the payload is the argument bytes (R76). -/
def genericPacketInstr (id : Byte) (payload : Bytes) : Decoded :=
  if id = 0x04#8 then .ok (.pktIdentify payload)
  else if id = 0x05#8 then .ok (.pktPower payload)
  else if id = 0x06#8 then .ok (.pktAuthenticate payload)
  else if id = 0x09#8 then .ok (.pktRumbleGeneric payload)
  else if id = 0x0a#8 then .ok (.pktLed payload)
  else .rejected .packetForm

/-- The rumble packet's payload: the seven operands stand at payload offsets 2 to 8 (R84). -/
def rumblePacketInstr (payload : Bytes) : Decoded :=
  match payload with
  | [_, _, lt, rt, ls, rs, on, off, rep] => .ok (.pktRumble ⟨lt, rt, ls, rs, on, off, rep⟩)
  | _ => .rejected .packetLength

/-- The form of a whole packet, told by bytes 0 and 1, command id and flags (R76). The sequence byte and the rumble form's
two constant bytes are the block's to fill: whatever the image holds there is ignored (log 9). -/
def packetInstr (image : Bytes) : Decoded :=
  match image with
  | id :: flags :: _ :: _ :: payload =>
    if flags = 0x20#8 then genericPacketInstr id payload
    else if flags = 0x00#8 ∧ id = 0x09#8 then rumblePacketInstr payload
    else .rejected .packetForm
  | _ => .rejected .packetLength

/-- Decoding a packet image: its length byte must say its length (R80, R95), then its form is told (R76). -/
def decodePacket (image : Bytes) : Decoded :=
  if packetWhole image then packetInstr image else .rejected .packetLength

/-- The class row of a report, told by its type byte (R86); no type byte is illegal (R94). -/
def reportInstr (buf : Bytes) : Instr :=
  match buf with
  | [] => .rptOther []
  | t :: rest =>
    if t = 0x20#8 then .rptInput rest
    else if t = 0x07#8 then .rptSystem rest
    else if t = 0x03#8 then .rptIgnored rest
    else .rptOther (t :: rest)

/-- Decoding a report: only its length can be wrong (R42, R94). -/
def decodeReport (buf : Bytes) : Decoded :=
  if bufOk buf then .ok (reportInstr buf) else .rejected .bufTooLong

/-- Decoding, total on everything that can be written down. -/
def decode (c : Code) : Decoded :=
  match c with
  | .request r => decodeRequest r
  | .packet image => decodePacket image
  | .report buf => decodeReport buf

/-! ### The encoder -/

/-- A request with only its operation code (R71). -/
def opRequest (op : BitVec 4) : Code := .request { blankRequest with op := op }

/-- A CMD.BUILD request (R70, R71): `argc` counts the arguments. -/
def cmdRequest (cmd : Byte) (args : Bytes) : Code :=
  .request { blankRequest with op := 0x2, cmd := cmd, argc := BitVec.ofNat 8 args.length, args := args }

/-- A RUMBLE.BUILD request (R70, R71). -/
def rumbleRequest (p : RumbleParams) : Code := .request { blankRequest with op := 0x3, motors := p }

/-- A request that reads a report buffer (R70). -/
def bufRequest (op : BitVec 4) (buf : Bytes) : Code :=
  .request { blankRequest with op := op, bufLen := buf.length, buf := buf }

/-- The image of a generic packet: header, then the payload (R76). The sequence byte is written 0: the block fills it. -/
def genericImage (id : Byte) (args : Bytes) : Code :=
  .packet ([id, 0x20#8, 0x00#8, BitVec.ofNat 8 args.length] ++ args)

/-- The image of a rumble packet (R84). The sequence byte is written 0: the block fills it. -/
def rumbleImage (p : RumbleParams) : Code :=
  .packet [0x09#8, 0x00#8, 0x00#8, 0x09#8, 0x00#8, 0x0f#8, p.lt, p.rt, p.ls, p.rs, p.on, p.off, p.rep]

/-- The rumble operands with the timing defaults of the pseudo-instruction RUMBLE: 0xff, 0x00, 0xff (R85, R97). -/
def defaultTiming (lt rt ls rs : Byte) : RumbleParams := ⟨lt, rt, ls, rs, 0xff#8, 0x00#8, 0xff#8⟩

/-- The encoding of an instruction in its code space; a pseudo-instruction has its expansion's (R97). -/
def encode (i : Instr) : Code :=
  match i with
  | .seqNext => opRequest 0x0
  | .seqPeek => opRequest 0x1
  | .cmdBuild cmd args => cmdRequest cmd args
  | .rumbleBuild p => rumbleRequest p
  | .s16Dec lo hi => .request { blankRequest with op := 0x4, lo := lo, hi := hi }
  | .bitGet buf byteIdx bitIdx =>
    .request { blankRequest with op := 0x5, bufLen := buf.length, buf := buf, byteIdx := byteIdx, bitIdx := bitIdx }
  | .rptClass buf => bufRequest 0x6 buf
  | .rptDec buf => bufRequest 0x7 buf
  | .sysDec buf => bufRequest 0x8 buf
  | .reserved9 => opRequest 0x9
  | .reservedA => opRequest 0xA
  | .reservedB => opRequest 0xB
  | .reservedC => opRequest 0xC
  | .reservedD => opRequest 0xD
  | .reservedE => opRequest 0xE
  | .reservedF => opRequest 0xF
  | .rumble lt rt ls rs => rumbleRequest (defaultTiming lt rt ls rs)
  | .identify args => cmdRequest 0x04#8 args
  | .power args => cmdRequest 0x05#8 args
  | .auth args => cmdRequest 0x06#8 args
  | .led args => cmdRequest 0x0a#8 args
  | .pktIdentify args => genericImage 0x04#8 args
  | .pktPower args => genericImage 0x05#8 args
  | .pktAuthenticate args => genericImage 0x06#8 args
  | .pktRumbleGeneric args => genericImage 0x09#8 args
  | .pktLed args => genericImage 0x0a#8 args
  | .pktRumble p => rumbleImage p
  | .rptInput rest => .report (0x20#8 :: rest)
  | .rptSystem rest => .report (0x07#8 :: rest)
  | .rptIgnored rest => .report (0x03#8 :: rest)
  | .rptOther buf => .report buf

/-- The core instruction a pseudo-instruction stands for (R97); every other instruction stands for itself. -/
def expandPseudo (i : Instr) : Instr :=
  match i with
  | .seqNext => .seqNext
  | .seqPeek => .seqPeek
  | .cmdBuild cmd args => .cmdBuild cmd args
  | .rumbleBuild p => .rumbleBuild p
  | .s16Dec lo hi => .s16Dec lo hi
  | .bitGet buf byteIdx bitIdx => .bitGet buf byteIdx bitIdx
  | .rptClass buf => .rptClass buf
  | .rptDec buf => .rptDec buf
  | .sysDec buf => .sysDec buf
  | .reserved9 => .reserved9
  | .reservedA => .reservedA
  | .reservedB => .reservedB
  | .reservedC => .reservedC
  | .reservedD => .reservedD
  | .reservedE => .reservedE
  | .reservedF => .reservedF
  | .rumble lt rt ls rs => .rumbleBuild (defaultTiming lt rt ls rs)
  | .identify args => .cmdBuild 0x04#8 args
  | .power args => .cmdBuild 0x05#8 args
  | .auth args => .cmdBuild 0x06#8 args
  | .led args => .cmdBuild 0x0a#8 args
  | .pktIdentify args => .pktIdentify args
  | .pktPower args => .pktPower args
  | .pktAuthenticate args => .pktAuthenticate args
  | .pktRumbleGeneric args => .pktRumbleGeneric args
  | .pktLed args => .pktLed args
  | .pktRumble p => .pktRumble p
  | .rptInput rest => .rptInput rest
  | .rptSystem rest => .rptSystem rest
  | .rptIgnored rest => .rptIgnored rest
  | .rptOther buf => .rptOther buf

/-! ### Words of the opcode table -/

/-- The image of a packet-form word: the first byte is the word's high byte (the table's note on a PKT row); a generic form
is the bare header. The rumble form has 13 bytes, so its length byte is 9 (R84); every other byte is 0 (log 11). -/
def packetOfTableWord (w : Nat) : Bytes :=
  let head := [BitVec.ofNat 8 (w / 256), BitVec.ofNat 8 w, 0x00#8]
  if w % 65536 = 0x0900 then head ++ 0x09#8 :: List.replicate 9 0x00#8 else head ++ [0x00#8]

/-- What a word of the opcode table stands for, by how many bits the table gives it (log 11): two bytes are a packet
form; one byte is a request's `op` where it fits in 4 bits, and a report's type byte where it does not. -/
def codeOfTableWord (nbits w : Nat) : Code :=
  if nbits ≤ 8 then
    if w % 256 < 16 then opRequest (BitVec.ofNat 4 w) else .report [BitVec.ofNat 8 w]
  else .packet (packetOfTableWord w)

/-- The instruction of a decoding, if there is one. -/
def decodedInstr? (d : Decoded) : Option Instr :=
  match d with
  | .ok i => some i
  | .rejected _ => none

/-- The instruction the decoder reads from a word of spec/opcode_table.json. -/
def decodeTableWord (nbits w : Nat) : Option Instr := decodedInstr? (decode (codeOfTableWord nbits w))

end Sys2Proof
end

