-- ==== Sys2Proof/Machine/State.lean ====
section
/-! DEFINITION. The state of the block (10_state.md R20, R32), the two ports the model gives it (20_memory.md R40,
30_encoding.md R74), why a step can stop, and the state after reset (R30, R220, R221). -/

namespace Sys2Proof.Machine

/-- The class of a report (R86, R142). -/
inductive ReportClass where
  | other
  | input
  | system
  | ignored
  deriving DecidableEq, Repr

/-- The fifteen buttons, in display order (R87). -/
inductive Button where
  | select
  | start
  | recBtn
  | a
  | b
  | x
  | y
  | dpadL
  | dpadR
  | dpadU
  | dpadD
  | lb
  | rb
  | sl
  | sr
  deriving DecidableEq, Repr

/-- The six 16-bit readings of an INPUT report, in numeric (display) order (R88). -/
inductive Axis where
  | lt
  | rt
  | lx
  | ly
  | rx
  | ry
  deriving DecidableEq, Repr

/-- The result fields `num[0..5]` with their valid bits: each present or absent (R74, R75, R145). -/
structure Readings where
  lt : Option Reading
  rt : Option Reading
  lx : Option Reading
  ly : Option Reading
  rx : Option Reading
  ry : Option Reading
  deriving DecidableEq, Repr

/-- What RPT.DEC returns of an INPUT report (R143): button `k` in display order is bit `k` of `buttons`. -/
structure InputReport where
  buttons : BitVec 15
  profile : Option Byte
  num : Readings
  axes : Option AxisTuple
  deriving DecidableEq, Repr

/-- A response (R74): the status and the fields the operation produces, and no others, so that nothing can be proved of
a line the spec leaves unspecified (R75, U9, log 14). `responseRecord` in Flags.lean is its view as the record of R74. -/
inductive Response where
  /-- SEQ.NEXT, SEQ.PEEK: `seq_out` -/
  | seqOut (v : Byte)
  /-- CMD.BUILD, RUMBLE.BUILD with status OK: `pkt` -/
  | packet (pkt : Bytes)
  /-- S16.DEC: `s16` -/
  | s16 (v : Reading)
  /-- BIT.GET: `bit` -/
  | bit (v : Bool)
  /-- RPT.CLASS: `cls` -/
  | cls (c : ReportClass)
  /-- RPT.DEC with `is_input = 0` (R149) -/
  | notInput
  /-- RPT.DEC with `is_input = 1` -/
  | inputReport (r : InputReport)
  /-- SYS.DEC with `is_system = 0` -/
  | notSystem
  /-- SYS.DEC with `is_system = 1` -/
  | systemReport (indicator : Bool)
  /-- status ILLEGAL_OP (R191) -/
  | illegalOp
  /-- status ILLEGAL_CMD (R192) -/
  | illegalCmd
  deriving DecidableEq, Repr

/-- The status of a response (R74, R193); code 3 is never produced. -/
inductive Status where
  | ok
  | illegalOp
  | illegalCmd
  deriving DecidableEq, Repr

/-- The response record with the fields and widths of R74. A field the response does not produce is `none`; so are the
data of an absent value, beside its valid bit 0 (R75). -/
structure ResponseRecord where
  status : BitVec 2
  seqOut : Option Byte
  pktLen : Option Nat
  pkt : Option Bytes
  s16 : Option Reading
  bit : Option Bool
  cls : Option (BitVec 2)
  isInput : Option Bool
  buttons : Option (BitVec 15)
  profileV : Option Bool
  profile : Option Byte
  /-- the six valid bits, bit `j` for `num[j]` -/
  numV : Option (BitVec 6)
  num : Option Readings
  axesV : Option Bool
  axes : Option AxisTuple
  isSystem : Option Bool
  indicator : Option Bool
  deriving DecidableEq, Repr

/-- What the outside presents to the block: a reset (R220) or something to decode (R40). -/
inductive Input where
  | reset
  | present (c : Code)
  deriving DecidableEq, Repr

/-- The machine: the one register the spec gives it (R20, R32) and the model's own two ports (logs 1 and 2). -/
structure State where
  /-- SEQ, the sequence counter: the value the next issuing operation issues (R20) -/
  seq : Byte
  /-- the request port: what has been presented and not yet served, oldest first (R40) -/
  inputs : List Input
  /-- the response port: the response last returned (R74) -/
  response : Option Response
  deriving DecidableEq, Repr

/-- The faults. The block has none (R198 to R202): `exec` and `step` never answer one. Both belong to the host layer of
Session.lean, where the spec calls them fatal (R183). -/
inductive Fault where
  /-- raised by `Session.systemStep` while Configuring, when an endpoint cannot be resolved; safe: the session ends there -/
  | endpointResolutionFailure
  /-- raised by `Session.systemStep` when a transport write fails; safe: the session ends there -/
  | transportWriteFailure
  deriving DecidableEq, Repr

/-- Why a step has no meaning. -/
inductive Refusal where
  /-- raised by an arm of `exec` whose instruction has no meaning yet; safe. No arm answers it. -/
  | notModelled (mnemonic : String)
  /-- raised by `step` when what is presented is no instruction: the spec says it cannot be presented (R73, R195); safe -/
  | cannotBePresented (e : DecodeError)
  deriving DecidableEq, Repr

/-- The machine after reset: SEQ is 0 (R30, R220, R221), nothing is presented and no response is retained. -/
def State.reset : State := { seq := 0x00#8, inputs := [], response := none }

end Sys2Proof.Machine
end

