-- ==== Sys2Proof/Machine/Flags.lean ====
section
/-! DEFINITION. The block has no flags, condition codes or predicates (10_state.md R26). What a response reports in their
place: the status code, the class code and the valid bits of the record of 30_encoding.md R74 and R75. -/

namespace Sys2Proof.Machine

/-- The status a response carries (R74, R193). -/
def responseStatus (r : Response) : Status :=
  match r with
  | .illegalOp => .illegalOp
  | .illegalCmd => .illegalCmd
  | .seqOut _ => .ok
  | .packet _ => .ok
  | .s16 _ => .ok
  | .bit _ => .ok
  | .cls _ => .ok
  | .notInput => .ok
  | .inputReport _ => .ok
  | .notSystem => .ok
  | .systemReport _ => .ok

/-- The status codes (R74, R193). -/
def statusCode (st : Status) : BitVec 2 :=
  match st with
  | .ok => 0
  | .illegalOp => 1
  | .illegalCmd => 2

/-- The class codes (R74). -/
def classCode (c : ReportClass) : BitVec 2 :=
  match c with
  | .other => 0
  | .input => 1
  | .system => 2
  | .ignored => 3

/-- The valid bits `num_v[0..5]`, in numeric order (R74, R75). -/
def readingsValid (n : Readings) : BitVec 6 :=
  (BitVec.ofBoolListLE [n.lt.isSome, n.rt.isSome, n.lx.isSome, n.ly.isSome, n.rx.isSome, n.ry.isSome]).setWidth 6

/-- A record with a status and no other field (R190). -/
def statusRecord (st : Status) : ResponseRecord :=
  { status := statusCode st, seqOut := none, pktLen := none, pkt := none, s16 := none, bit := none, cls := none,
    isInput := none, buttons := none, profileV := none, profile := none, numV := none, num := none, axesV := none,
    axes := none, isSystem := none, indicator := none }

/-- The response as the record of R74. -/
def responseRecord (r : Response) : ResponseRecord :=
  let base := statusRecord (responseStatus r)
  match r with
  | .seqOut v => { base with seqOut := some v }
  | .packet p => { base with pktLen := some p.length, pkt := some p }
  | .s16 v => { base with s16 := some v }
  | .bit v => { base with bit := some v }
  | .cls c => { base with cls := some (classCode c) }
  | .notInput => { base with isInput := some false }
  | .inputReport f =>
    { base with isInput := some true, buttons := some f.buttons, profileV := some f.profile.isSome, profile := f.profile,
                numV := some (readingsValid f.num), num := some f.num, axesV := some f.axes.isSome, axes := f.axes }
  | .notSystem => { base with isSystem := some false }
  | .systemReport ind => { base with isSystem := some true, indicator := some ind }
  | .illegalOp => base
  | .illegalCmd => base

end Sys2Proof.Machine
end

