-- ==== Sys2Proof/Machine/Operands.lean ====
section
/-! DEFINITION. The reads of a report buffer (20_memory.md R43 to R45), the tables of an INPUT report (30_encoding.md R87 to
R89), the signed 16-bit reading (42_input_decoder.md R140), and the bytes of a packet (R76, R84). -/

namespace Sys2Proof.Machine

/-! ### Reads of a report buffer -/

/-- `RptRead(buf, i)`: the byte, or `none` beyond the end (R43). -/
def rptRead (buf : Bytes) (i : Nat) : Option Byte := buf[i]?

/-- `RptRead16(buf, i)`: low and high byte; absent as a whole unless both are inside the buffer (R44). -/
def rptRead16 (buf : Bytes) (i : Nat) : Option (Byte × Byte) :=
  match rptRead buf i, rptRead buf (i + 1) with
  | some lo, some hi => some (lo, hi)
  | _, _ => none

/-- `RptBit(buf, i, k)`: bit `k` of the byte, `false` beyond the end (R45). -/
def rptBit (buf : Bytes) (i k : Nat) : Bool :=
  match rptRead buf i with
  | some b => b.getLsbD k
  | none => false

/-! ### The signed reading -/

/-- `S16(lo, hi)`: the pattern `lo | (hi << 8)`; its signed value is `toInt` (R140). -/
def s16 (lo hi : Byte) : Reading := lo.setWidth 16 ||| (hi.setWidth 16 <<< 8)

/-! ### The tables of an INPUT report -/

/-- The buttons in display order: position `k` is display index `k` (R87). -/
def buttonOrder : List Button :=
  [.select, .start, .recBtn, .a, .b, .x, .y, .dpadL, .dpadR, .dpadU, .dpadD, .lb, .rb, .sl, .sr]

/-- Report offset and bit of each button (R87). -/
def buttonPlace (k : Button) : Nat × Nat :=
  match k with
  | .select => (4, 3)
  | .start => (4, 2)
  | .recBtn => (22, 0)
  | .a => (4, 4)
  | .b => (4, 5)
  | .x => (4, 6)
  | .y => (4, 7)
  | .dpadL => (5, 2)
  | .dpadR => (5, 3)
  | .dpadU => (5, 0)
  | .dpadD => (5, 1)
  | .lb => (5, 4)
  | .rb => (5, 5)
  | .sl => (5, 6)
  | .sr => (5, 7)

/-- Display index of each button (R87). -/
def buttonIndex (k : Button) : Nat := buttonOrder.idxOf k

/-- Offset of the low byte of each reading; the high byte follows (R88). -/
def axisOffset (a : Axis) : Nat :=
  match a with
  | .lt => 6
  | .rt => 8
  | .lx => 10
  | .ly => 12
  | .rx => 14
  | .ry => 16

/-- Offset of the profile byte (R88). -/
def profileOffset : Nat := 34

/-- Offset of the indicator byte of a SYSTEM report (R90). -/
def indicatorOffset : Nat := 4

/-! ### The fields of an INPUT report -/

/-- The state of one button: active or inactive (R144). -/
def buttonActive (buf : Bytes) (k : Button) : Bool := rptBit buf (buttonPlace k).1 (buttonPlace k).2

/-- The `buttons` field: the fifteen flags, display index 0 in bit 0 (R74, R144). -/
def buttonField (buf : Bytes) : BitVec 15 :=
  (BitVec.ofBoolListLE (buttonOrder.map (buttonActive buf))).setWidth 15

/-- One reading: present when both its bytes are (R145). -/
def readAxis (buf : Bytes) (a : Axis) : Option Reading :=
  (rptRead16 buf (axisOffset a)).map fun p => s16 p.1 p.2

/-- The six readings (R145). -/
def readings (buf : Bytes) : Readings :=
  { lt := readAxis buf .lt, rt := readAxis buf .rt, lx := readAxis buf .lx, ly := readAxis buf .ly,
    rx := readAxis buf .rx, ry := readAxis buf .ry }

/-- The axis tuple: whole, in the tuple's order, when all six readings are present, and absent otherwise (R89, R146). -/
def axisTuple (n : Readings) : Option AxisTuple :=
  n.lx.bind fun lx => n.ly.bind fun ly => n.rx.bind fun rx => n.ry.bind fun ry => n.lt.bind fun lt =>
    n.rt.map fun rt => { lx := lx, ly := ly, rx := rx, ry := ry, lt := lt, rt := rt }

/-- The fields of an INPUT report (R143). -/
def inputFields (buf : Bytes) : InputReport :=
  { buttons := buttonField buf, profile := rptRead buf profileOffset, num := readings buf,
    axes := axisTuple (readings buf) }

/-- The class of a report, told by its type byte alone (R142). -/
def classify (buf : Bytes) : ReportClass :=
  if rptRead buf 0 = some 0x20#8 then .input
  else if rptRead buf 0 = some 0x07#8 then .system
  else if rptRead buf 0 = some 0x03#8 then .ignored
  else .other

/-- The SYSTEM indicator: byte 4 present and not zero (R150). -/
def indicatorActive (buf : Bytes) : Bool :=
  match rptRead buf indicatorOffset with
  | some x => decide (x ≠ 0x00#8)
  | none => false

/-- The result of RPT.DEC (R143, R149). -/
def decodeInput (buf : Bytes) : Response :=
  if rptRead buf 0 = some 0x20#8 then .inputReport (inputFields buf) else .notInput

/-- The result of SYS.DEC (R150). -/
def decodeSystem (buf : Bytes) : Response :=
  if rptRead buf 0 = some 0x07#8 then .systemReport (indicatorActive buf) else .notSystem

/-! ### The bytes of a packet -/

/-- Membership in the Command enumeration: all 8 bits are compared (R82, R161 g). -/
def isCommand (cmd : Byte) : Bool := decide (cmd ∈ commandIds)

/-- The packet of a generic command: header `[cmd, 0x20, seq, argc]`, then the arguments unchanged (R120). -/
def genericPacket (cmd seq : Byte) (args : Bytes) : Bytes :=
  [cmd, 0x20#8, seq, BitVec.ofNat 8 args.length] ++ args

/-- The packet of a rumble command: 13 bytes (R84, R121). -/
def rumblePacket (seq : Byte) (p : RumbleParams) : Bytes :=
  [0x09#8, 0x00#8, seq, 0x09#8, 0x00#8, 0x0f#8, p.lt, p.rt, p.ls, p.rs, p.on, p.off, p.rep]

end Sys2Proof.Machine
end

