-- ==== Sys2Proof/Machine/Ops.lean ====
section
/-! DEFINITION. The named operations on the state: returning a response, the sequence counter's read-and-increment
(10_state.md R21), the refusals (60_exceptions.md R190), the two builds (41_packet_encoder.md), reset and taking the next
input (20_memory.md R40). -/

namespace Sys2Proof.Machine

/-- The operation ends with a response; nothing else changes (R74). -/
def answer (r : Response) (s : State) : Host.Outcome State Fault Refusal := .next { s with response := some r }

/-- `SEQ <- (SEQ + 1) mod 256` (R21, R112). -/
def advanceSeq (s : State) : State := { s with seq := s.seq + 1 }

/-- `raise <status>`, the one exception of the block: a response with the status and nothing else, no state written, no
control transferred (R190, R198). There is no return from it (R199). -/
def raiseStatus (r : Response) (s : State) : Host.Outcome State Fault Refusal := answer r s

/-- A reserved operation code: refused with ILLEGAL_OP, no other field read (R92, R191). -/
def raiseIllegalOp (s : State) : Host.Outcome State Fault Refusal := raiseStatus .illegalOp s

/-- `Emit(p)`: the response carries the packet (R46). -/
def emit (p : Bytes) (s : State) : Host.Outcome State Fault Refusal := answer (.packet p) s

/-- Framing a generic command of the enumeration: the packet carries SEQ, which advances by one (R112, R120). -/
def frameCommand (cmd : Byte) (args : Bytes) (s : State) : Host.Outcome State Fault Refusal :=
  emit (genericPacket cmd s.seq args) (advanceSeq s)

/-- A generic build: the command id is checked before SEQ is read (R120, R197). -/
def buildCommand (cmd : Byte) (args : Bytes) (s : State) : Host.Outcome State Fault Refusal :=
  if isCommand cmd then frameCommand cmd args s else raiseStatus .illegalCmd s

/-- A rumble build: the packet carries SEQ, which advances by one (R112, R121). -/
def buildRumble (p : RumbleParams) (s : State) : Host.Outcome State Fault Refusal :=
  emit (rumblePacket s.seq p) (advanceSeq s)

/-- Reset: SEQ is 0, the response before it is not retained (R220, R221). What is presented after it stays (log 3). -/
def resetBlock (s : State) : State := { s with seq := 0x00#8, response := none }

/-- The next input, in the order of presentation (R40), and the state without it; `none` where nothing is presented. -/
def takeInput (s : State) : Option (Input × State) :=
  match s.inputs with
  | [] => none
  | x :: rest => some (x, { s with inputs := rest })

/-- Putting an input where the next step takes it. -/
def presentNext (x : Input) (s : State) : State := { s with inputs := x :: s.inputs }

end Sys2Proof.Machine
end

