-- ==== Sys2Proof/Machine/Counter.lean ====
section
/-! DEFINITION. Operation family 1, the sequence counter (40_sequence_counter.md R110, R111). -/

namespace Sys2Proof.Machine

/-- SEQ.NEXT (R110): the response is SEQ, which advances by one modulo 256. -/
def execSeqNext (s : State) : Host.Outcome State Fault Refusal :=
  answer (.seqOut s.seq) (advanceSeq s)

/-- SEQ.PEEK (R111): the response is SEQ, which does not change. -/
def execSeqPeek (s : State) : Host.Outcome State Fault Refusal :=
  answer (.seqOut s.seq) s

end Sys2Proof.Machine
end

