-- ==== Sys2Proof/Machine/Encoder.lean ====
section
/-! DEFINITION. Operation family 2, the packet encoder (41_packet_encoder.md R120, R121). -/

namespace Sys2Proof.Machine

/-- CMD.BUILD (R120, R124 to R128, R192). -/
def execCmdBuild (cmd : Byte) (args : Bytes) (s : State) : Host.Outcome State Fault Refusal :=
  buildCommand cmd args s

/-- RUMBLE.BUILD (R121). -/
def execRumbleBuild (p : RumbleParams) (s : State) : Host.Outcome State Fault Refusal :=
  buildRumble p s

end Sys2Proof.Machine
end

