-- ==== Sys2Proof/Machine/InputDecoder.lean ====
section
/-! DEFINITION. Operation family 3, the input-report decoder (42_input_decoder.md R140 to R150). None of its operations touches SEQ. -/

namespace Sys2Proof.Machine

/-- S16.DEC (R140). -/
def execS16Dec (lo hi : Byte) (s : State) : Host.Outcome State Fault Refusal :=
  answer (.s16 (s16 lo hi)) s

/-- BIT.GET (R141). -/
def execBitGet (buf : Bytes) (byteIdx : Nat) (bitIdx : BitVec 3) (s : State) : Host.Outcome State Fault Refusal :=
  answer (.bit (rptBit buf byteIdx bitIdx.toNat)) s

/-- RPT.CLASS (R142). -/
def execRptClass (buf : Bytes) (s : State) : Host.Outcome State Fault Refusal :=
  answer (.cls (classify buf)) s

/-- RPT.DEC (R143 to R149). -/
def execRptDec (buf : Bytes) (s : State) : Host.Outcome State Fault Refusal :=
  answer (decodeInput buf) s

/-- SYS.DEC (R150). -/
def execSysDec (buf : Bytes) (s : State) : Host.Outcome State Fault Refusal :=
  answer (decodeSystem buf) s

end Sys2Proof.Machine
end

