-- ==== Sys2Proof/Machine/PacketForms.lean ====
section
/-! DEFINITION. The outbound packet forms of the opcode table (30_encoding.md R76, R82, R84). A form is what a build emits; the
model gives its row the effect of that build: the packet of the form, carrying SEQ, which advances by one (log 8). -/

namespace Sys2Proof.Machine

/-- The packet form 04 20: the packet a CMD.BUILD of that id emits (R76, R82). -/
def execPktIdentify (args : Bytes) (s : State) : Host.Outcome State Fault Refusal :=
  frameCommand 0x04#8 args s

/-- The packet form 05 20: the packet a CMD.BUILD of that id emits (R76, R82). -/
def execPktPower (args : Bytes) (s : State) : Host.Outcome State Fault Refusal :=
  frameCommand 0x05#8 args s

/-- The packet form 06 20: the packet a CMD.BUILD of that id emits (R76, R82). -/
def execPktAuthenticate (args : Bytes) (s : State) : Host.Outcome State Fault Refusal :=
  frameCommand 0x06#8 args s

/-- The packet form 09 20: the packet a CMD.BUILD of that id emits (R76, R82). -/
def execPktRumbleGeneric (args : Bytes) (s : State) : Host.Outcome State Fault Refusal :=
  frameCommand 0x09#8 args s

/-- The packet form 0a 20: the packet a CMD.BUILD of that id emits (R76, R82). -/
def execPktLed (args : Bytes) (s : State) : Host.Outcome State Fault Refusal :=
  frameCommand 0x0a#8 args s

/-- The packet form 09 00: the packet RUMBLE.BUILD emits (R84). -/
def execPktRumble (p : RumbleParams) (s : State) : Host.Outcome State Fault Refusal :=
  buildRumble p s

end Sys2Proof.Machine
end

