-- ==== Sys2Proof/Machine/Pseudo.lean ====
section
/-! DEFINITION. The assembler pseudo-instructions (30_encoding.md R97): each is its expansion. -/

namespace Sys2Proof.Machine

/-- RUMBLE lt, rt, ls, rs: RUMBLE.BUILD with the timing 0xff, 0x00, 0xff (R85, R97). -/
def execRumble (lt rt ls rs : Byte) (s : State) : Host.Outcome State Fault Refusal :=
  buildRumble (defaultTiming lt rt ls rs) s

/-- IDENTIFY a0, ...: CMD.BUILD 0x04, a0, ... (R97). -/
def execIdentify (args : Bytes) (s : State) : Host.Outcome State Fault Refusal :=
  buildCommand 0x04#8 args s

/-- POWER a0, ...: CMD.BUILD 0x05, a0, ... (R97). -/
def execPower (args : Bytes) (s : State) : Host.Outcome State Fault Refusal :=
  buildCommand 0x05#8 args s

/-- AUTH a0, ...: CMD.BUILD 0x06, a0, ... (R97). -/
def execAuth (args : Bytes) (s : State) : Host.Outcome State Fault Refusal :=
  buildCommand 0x06#8 args s

/-- LED a0, ...: CMD.BUILD 0x0a, a0, ... (R97). -/
def execLed (args : Bytes) (s : State) : Host.Outcome State Fault Refusal :=
  buildCommand 0x0a#8 args s

end Sys2Proof.Machine
end

