-- ==== Sys2Proof/Machine/ReportForms.lean ====
section
/-! DEFINITION. The inbound report classes of the opcode table (30_encoding.md R86). A report is handed to the operation the row's
rule names: RPT.DEC for INPUT, SYS.DEC for SYSTEM, RPT.CLASS for the two classes of which nothing more is read (log 10). -/

namespace Sys2Proof.Machine

/-- An INPUT report, type byte 0x20: decoded (R143). -/
def execRptInput (rest : Bytes) (s : State) : Host.Outcome State Fault Refusal :=
  answer (decodeInput (0x20#8 :: rest)) s

/-- A SYSTEM report, type byte 0x07: its indicator (R150). -/
def execRptSystem (rest : Bytes) (s : State) : Host.Outcome State Fault Refusal :=
  answer (decodeSystem (0x07#8 :: rest)) s

/-- A report of type 0x03: classified, nothing more is read (R86, R142). -/
def execRptIgnored (rest : Bytes) (s : State) : Host.Outcome State Fault Refusal :=
  answer (.cls (classify (0x03#8 :: rest))) s

/-- Any other report, or none: classified, nothing more is read (R86, R142). -/
def execRptOther (buf : Bytes) (s : State) : Host.Outcome State Fault Refusal :=
  answer (.cls (classify buf)) s

end Sys2Proof.Machine
end

