-- ==== Sys2Proof/Machine/Reserved.lean ====
section
/-! DEFINITION. The reserved operation codes 0x9 to 0xF (30_encoding.md R92, 60_exceptions.md R191): the response is ILLEGAL_OP. -/

namespace Sys2Proof.Machine

/-- Operation code 0x9 (R92, R191). -/
def execReserved9 (s : State) : Host.Outcome State Fault Refusal :=
  raiseIllegalOp s

/-- Operation code 0xA (R92, R191). -/
def execReservedA (s : State) : Host.Outcome State Fault Refusal :=
  raiseIllegalOp s

/-- Operation code 0xB (R92, R191). -/
def execReservedB (s : State) : Host.Outcome State Fault Refusal :=
  raiseIllegalOp s

/-- Operation code 0xC (R92, R191). -/
def execReservedC (s : State) : Host.Outcome State Fault Refusal :=
  raiseIllegalOp s

/-- Operation code 0xD (R92, R191). -/
def execReservedD (s : State) : Host.Outcome State Fault Refusal :=
  raiseIllegalOp s

/-- Operation code 0xE (R92, R191). -/
def execReservedE (s : State) : Host.Outcome State Fault Refusal :=
  raiseIllegalOp s

/-- Operation code 0xF (R92, R191). -/
def execReservedF (s : State) : Host.Outcome State Fault Refusal :=
  raiseIllegalOp s

end Sys2Proof.Machine
end

