-- ==== Sys2Proof/Machine/Dispatch.lean ====
section
/-! DEFINITION. The dispatch: one arm per row of the opcode table. -/

namespace Sys2Proof.Machine

def exec (i : Instr) (s : State) : Host.Outcome State Fault Refusal :=
  match i with
  | .seqNext => Sys2Proof.Machine.execSeqNext s
  | .seqPeek => Sys2Proof.Machine.execSeqPeek s
  | .cmdBuild cmd args => Sys2Proof.Machine.execCmdBuild cmd args s
  | .rumbleBuild p => Sys2Proof.Machine.execRumbleBuild p s
  | .s16Dec lo hi => Sys2Proof.Machine.execS16Dec lo hi s
  | .bitGet buf byteIdx bitIdx => Sys2Proof.Machine.execBitGet buf byteIdx bitIdx s
  | .rptClass buf => Sys2Proof.Machine.execRptClass buf s
  | .rptDec buf => Sys2Proof.Machine.execRptDec buf s
  | .sysDec buf => Sys2Proof.Machine.execSysDec buf s
  | .reserved9 => Sys2Proof.Machine.execReserved9 s
  | .reservedA => Sys2Proof.Machine.execReservedA s
  | .reservedB => Sys2Proof.Machine.execReservedB s
  | .reservedC => Sys2Proof.Machine.execReservedC s
  | .reservedD => Sys2Proof.Machine.execReservedD s
  | .reservedE => Sys2Proof.Machine.execReservedE s
  | .reservedF => Sys2Proof.Machine.execReservedF s
  | .rumble lt rt ls rs => Sys2Proof.Machine.execRumble lt rt ls rs s
  | .identify args => Sys2Proof.Machine.execIdentify args s
  | .power args => Sys2Proof.Machine.execPower args s
  | .auth args => Sys2Proof.Machine.execAuth args s
  | .led args => Sys2Proof.Machine.execLed args s
  | .pktIdentify args => Sys2Proof.Machine.execPktIdentify args s
  | .pktPower args => Sys2Proof.Machine.execPktPower args s
  | .pktAuthenticate args => Sys2Proof.Machine.execPktAuthenticate args s
  | .pktRumbleGeneric args => Sys2Proof.Machine.execPktRumbleGeneric args s
  | .pktLed args => Sys2Proof.Machine.execPktLed args s
  | .pktRumble p => Sys2Proof.Machine.execPktRumble p s
  | .rptInput rest => Sys2Proof.Machine.execRptInput rest s
  | .rptSystem rest => Sys2Proof.Machine.execRptSystem rest s
  | .rptIgnored rest => Sys2Proof.Machine.execRptIgnored rest s
  | .rptOther buf => Sys2Proof.Machine.execRptOther buf s

end Sys2Proof.Machine
end

