-- ==== Sys2Proof/Machine/Step.lean ====
section
/-! DEFINITION. One step: the next input is taken and served, to completion (20_memory.md R40). -/

namespace Sys2Proof.Machine

/-- One step of the block. With nothing presented nothing happens (R196, log 2); a reset resets (R220); what decodes runs;
what the ports could not carry is refused by name (R73, R195, log 6). -/
def step (s : State) : Host.Outcome State Fault Refusal :=
  match takeInput s with
  | none => .next s
  | some (.reset, t) => .next (resetBlock t)
  | some (.present c, t) =>
    match decode c with
    | .ok i => exec i t
    | .rejected e => .refused (.cannotBePresented e)

/-- `s` with the instruction of a table word presented, before anything else, so that the next step runs it (log 12). -/
def State.withFetchWord (s : State) (nbits w : Nat) : State := presentNext (.present (codeOfTableWord nbits w)) s

end Sys2Proof.Machine
end

