-- ==== Sys2Proof/Machine/Assembler.lean ====
section
/-! DEFINITION. The assembler notation of 30_encoding.md R96 and R97: which operands each mnemonic takes, in which order, and
the instruction they make; then the text of one line, split into a mnemonic and operands. -/

namespace Sys2Proof.Machine

/-- The mnemonics of the assembler: the nine operations (R96) and the five pseudo-instructions (R97). -/
inductive Mnemonic where
  | seqNext
  | seqPeek
  | cmdBuild
  | rumbleBuild
  | s16Dec
  | bitGet
  | rptClass
  | rptDec
  | sysDec
  | rumble
  | identify
  | power
  | auth
  | led
  deriving DecidableEq, Repr

/-- An operand as written: a number, or a report buffer between braces (R96). -/
inductive AsmOperand where
  | num (n : Nat)
  | buf (bs : Bytes)
  deriving DecidableEq, Repr

/-- How a mnemonic is written (R13, R97). -/
def mnemonicText (m : Mnemonic) : String :=
  match m with
  | .seqNext => "SEQ.NEXT"
  | .seqPeek => "SEQ.PEEK"
  | .cmdBuild => "CMD.BUILD"
  | .rumbleBuild => "RUMBLE.BUILD"
  | .s16Dec => "S16.DEC"
  | .bitGet => "BIT.GET"
  | .rptClass => "RPT.CLASS"
  | .rptDec => "RPT.DEC"
  | .sysDec => "SYS.DEC"
  | .rumble => "RUMBLE"
  | .identify => "IDENTIFY"
  | .power => "POWER"
  | .auth => "AUTH"
  | .led => "LED"

/-- A byte operand: a number 0 to 255; any other is rejected, never truncated (R70, R96, D7). -/
def byteOperand (o : AsmOperand) : Option Byte :=
  match o with
  | .num n => if n < 256 then some (BitVec.ofNat 8 n) else none
  | .buf _ => none

/-- A list of byte operands (R96). -/
def byteOperands (os : List AsmOperand) : Option Bytes :=
  match os with
  | [] => some []
  | o :: rest => (byteOperand o).bind fun b => (byteOperands rest).map fun bs => b :: bs

/-- An argument list of a generic command: at most MAX_ARGS bytes (R70, D8). -/
def argOperands (os : List AsmOperand) : Option Bytes :=
  (byteOperands os).bind fun bs => if argsOk bs then some bs else none

/-- The instruction a mnemonic and its operands make (R96, R97); `none` where the operands do not fit. -/
def assemble (m : Mnemonic) (os : List AsmOperand) : Option Instr :=
  match m, os with
  | .seqNext, [] => some .seqNext
  | .seqPeek, [] => some .seqPeek
  | .cmdBuild, c :: rest => (byteOperand c).bind fun cmd => (argOperands rest).map fun args => .cmdBuild cmd args
  | .rumbleBuild, _ =>
    match byteOperands os with
    | some [lt, rt, ls, rs, on, off, rep] => some (.rumbleBuild ⟨lt, rt, ls, rs, on, off, rep⟩)
    | _ => none
  | .s16Dec, _ =>
    match byteOperands os with
    | some [lo, hi] => some (.s16Dec lo hi)
    | _ => none
  | .bitGet, [.buf b, .num i, .num k] => if bufOk b ∧ k < 8 then some (.bitGet b i (BitVec.ofNat 3 k)) else none
  | .rptClass, [.buf b] => if bufOk b then some (.rptClass b) else none
  | .rptDec, [.buf b] => if bufOk b then some (.rptDec b) else none
  | .sysDec, [.buf b] => if bufOk b then some (.sysDec b) else none
  | .rumble, _ =>
    match byteOperands os with
    | some [lt, rt, ls, rs] => some (.rumble lt rt ls rs)
    | _ => none
  | .identify, _ => (argOperands os).map .identify
  | .power, _ => (argOperands os).map .power
  | .auth, _ => (argOperands os).map .auth
  | .led, _ => (argOperands os).map .led
  | .seqNext, _ :: _ => none
  | .seqPeek, _ :: _ => none
  | .cmdBuild, [] => none
  | .bitGet, _ => none
  | .rptClass, _ => none
  | .rptDec, _ => none
  | .sysDec, _ => none

/-- Byte operands as written. -/
def byteNums (bs : Bytes) : List AsmOperand := bs.map fun b => .num b.toNat

/-- The syntax table: how an instruction of R96 or R97 is written; the other rows of the opcode table have no syntax. -/
def assemblerForm (i : Instr) : Option (Mnemonic × List AsmOperand) :=
  match i with
  | .seqNext => some (.seqNext, [])
  | .seqPeek => some (.seqPeek, [])
  | .cmdBuild cmd args => some (.cmdBuild, byteNums (cmd :: args))
  | .rumbleBuild p => some (.rumbleBuild, byteNums [p.lt, p.rt, p.ls, p.rs, p.on, p.off, p.rep])
  | .s16Dec lo hi => some (.s16Dec, byteNums [lo, hi])
  | .bitGet buf byteIdx bitIdx => some (.bitGet, [.buf buf, .num byteIdx, .num bitIdx.toNat])
  | .rptClass buf => some (.rptClass, [.buf buf])
  | .rptDec buf => some (.rptDec, [.buf buf])
  | .sysDec buf => some (.sysDec, [.buf buf])
  | .rumble lt rt ls rs => some (.rumble, byteNums [lt, rt, ls, rs])
  | .identify args => some (.identify, byteNums args)
  | .power args => some (.power, byteNums args)
  | .auth args => some (.auth, byteNums args)
  | .led args => some (.led, byteNums args)
  | .reserved9 => none
  | .reservedA => none
  | .reservedB => none
  | .reservedC => none
  | .reservedD => none
  | .reservedE => none
  | .reservedF => none
  | .pktIdentify _ => none
  | .pktPower _ => none
  | .pktAuthenticate _ => none
  | .pktRumbleGeneric _ => none
  | .pktLed _ => none
  | .pktRumble _ => none
  | .rptInput _ => none
  | .rptSystem _ => none
  | .rptIgnored _ => none
  | .rptOther _ => none

/-! ### The text of a line (R96) -/

/-- Every mnemonic. -/
def mnemonics : List Mnemonic :=
  [.seqNext, .seqPeek, .cmdBuild, .rumbleBuild, .s16Dec, .bitGet, .rptClass, .rptDec, .sysDec, .rumble, .identify, .power,
   .auth, .led]

/-- Blanks at either end removed. -/
def trimBlanks (cs : List Char) : List Char := ((cs.dropWhile Char.isWhitespace).reverse.dropWhile Char.isWhitespace).reverse

/-- The pieces of a text between separators; an empty text has one empty piece. -/
def splitAtChars (sep : Char → Bool) (cs : List Char) : List (List Char) :=
  match cs with
  | [] => [[]]
  | c :: rest =>
    if sep c then [] :: splitAtChars sep rest
    else
      match splitAtChars sep rest with
      | [] => [[c]]
      | p :: ps => (c :: p) :: ps

/-- The value of a digit, 0 to 15. -/
def digitValue (c : Char) : Option Nat :=
  if '0' ≤ c ∧ c ≤ '9' then some (c.toNat - '0'.toNat)
  else if 'a' ≤ c ∧ c ≤ 'f' then some (c.toNat - 'a'.toNat + 10)
  else if 'A' ≤ c ∧ c ≤ 'F' then some (c.toNat - 'A'.toNat + 10)
  else none

/-- The number that digits of a base write, most significant first, after what has been read already. -/
def digitsFrom (base acc : Nat) (cs : List Char) : Option Nat :=
  match cs with
  | [] => some acc
  | c :: rest => (digitValue c).bind fun d => if d < base then digitsFrom base (acc * base + d) rest else none

/-- A number in a base; no digits are no number. -/
def digits (base : Nat) (cs : List Char) : Option Nat :=
  match cs with
  | [] => none
  | _ :: _ => digitsFrom base 0 cs

/-- A number: decimal, `0x` hexadecimal or `0b` binary (R96). -/
def parseNumber (cs : List Char) : Option Nat :=
  match cs with
  | '0' :: 'x' :: rest => digits 16 rest
  | '0' :: 'b' :: rest => digits 2 rest
  | _ => digits 10 cs

/-- One item of a report buffer: a hex pair, or a hex pair repeated, as in `00*40` (R96). -/
def parseBufferItem (cs : List Char) : Option Bytes :=
  match cs with
  | [h, l] => (digits 16 [h, l]).map fun n => [BitVec.ofNat 8 n]
  | h :: l :: '*' :: count =>
    (digits 16 [h, l]).bind fun n => (digits 10 count).map fun k => List.replicate k (BitVec.ofNat 8 n)
  | _ => none

/-- The items of a report buffer, first byte first (R96). -/
def parseBufferItems (items : List (List Char)) : Option Bytes :=
  match items with
  | [] => some []
  | it :: rest => (parseBufferItem it).bind fun bs => (parseBufferItems rest).map fun cs => bs ++ cs

/-- The braces around a report buffer. -/
def openBrace : Char := Char.ofNat 123
/-- See `openBrace`. -/
def closeBrace : Char := Char.ofNat 125

/-- An operand: a number, or a report buffer between braces (R96). -/
def parseOperand (cs : List Char) : Option AsmOperand :=
  match trimBlanks cs with
  | [] => none
  | c :: rest =>
    if c = openBrace then
      if rest.getLast? = some closeBrace then
        (parseBufferItems ((splitAtChars Char.isWhitespace rest.dropLast).filter fun p => !p.isEmpty)).map .buf
      else none
    else (parseNumber (c :: rest)).map .num

/-- A list of operands. -/
def parseOperands (pieces : List (List Char)) : Option (List AsmOperand) :=
  match pieces with
  | [] => some []
  | p :: rest => (parseOperand p).bind fun o => (parseOperands rest).map fun os => o :: os

/-- One line of assembly: a comment from `;` on is dropped; a mnemonic, then operands separated by commas (R96). -/
def assembleLine (line : List Char) : Option Instr :=
  let text := trimBlanks (line.takeWhile fun c => c ≠ ';')
  let name := text.takeWhile fun c => !c.isWhitespace
  let tail := trimBlanks (text.drop name.length)
  (mnemonics.find? fun m => (mnemonicText m).toList = name).bind fun m =>
    if tail = [] then assemble m []
    else (parseOperands (splitAtChars (fun c => c = ',') tail)).bind fun os => assemble m os

end Sys2Proof.Machine
end

