-- ==== Sys2Proof/Machine/Session.lean ====
section
/-! DEFINITION. The host of the block, as far as 43_host_session.md settles it: the session loop over the block, the
transport and the display. It is not part of the block (00_scope.md R5, 10_state.md R29): neither `State` nor `step` holds
any of it. It drives the block through its request port only, one request at a time (R184). Log 15. -/

namespace Sys2Proof.Session

open Sys2Proof.Machine

/-- The session states (R173). -/
inductive Phase where
  | connecting
  | configuring
  | running
  | draining
  | exited
  deriving DecidableEq, Repr

/-- What the display shows, as values; its strings are not modelled (R171, R182, N12). -/
structure Display where
  /-- the button list of the last INPUT report -/
  buttons : Option (BitVec 15)
  /-- the system indicator of the last SYSTEM report -/
  indicator : Option Bool
  /-- the profile byte and the six readings of the last INPUT report -/
  numerics : Option (Option Byte × Readings)
  /-- the sequence value shown, read by SEQ.PEEK (R182, log 18) -/
  lastSeq : Option Byte
  deriving DecidableEq, Repr

/-- The state of the host (R171), what it has handed to the transport and what it has dumped. -/
structure HostState where
  phase : Phase
  /-- the one message "device not found yet" has been given (R173) -/
  notFoundTold : Bool
  /-- the last-sent rumble parameters, or none yet (R179, log 17) -/
  lastRumble : Option RumbleParams
  /-- the instant the hold-timer started, in milliseconds, or not running (R181, log 19) -/
  holdSince : Option Nat
  display : Display
  /-- the packets written to the transport, oldest first (R172, R176) -/
  written : List Bytes
  /-- the reports passed through as a raw dump, oldest first (R175) -/
  dumped : List Bytes
  deriving DecidableEq, Repr

/-- The block and its host. -/
structure System where
  block : State
  host : HostState
  deriving DecidableEq, Repr

/-- What the external collaborators report to the host (R172, R183). -/
inductive Event where
  /-- discovery found no matching device -/
  | deviceMissing
  /-- discovery found the device -/
  | deviceFound
  /-- both endpoints are resolved -/
  | endpointsResolved
  /-- an endpoint cannot be resolved -/
  | endpointUnresolved
  /-- a transport read ended at an instant, in milliseconds (log 19): with a report, or with a timeout. The spec does not
  give the read's `maxLen` and `timeout` (N11): the report may be of any length (log 21) -/
  | poll (now : Nat) (data : Option Bytes)
  /-- a transport write failed (log 20) -/
  | writeFailed
  deriving DecidableEq, Repr

/-- The system before the session: the block after reset, the host Connecting (R173). -/
def systemStart : System :=
  { block := State.reset
    host := { phase := .connecting, notFoundTold := false, lastRumble := none, holdSince := none,
              display := { buttons := none, indicator := none, numerics := none, lastSeq := none },
              written := [], dumped := [] } }

/-- What happens next, where the first thing ended in a next state; else its fault or refusal. -/
def andThen {σ τ : Type} (o : Host.Outcome σ Fault Refusal) (f : σ → Host.Outcome τ Fault Refusal) :
    Host.Outcome τ Fault Refusal :=
  match o with
  | .next s => f s
  | .fault r => .fault r
  | .refused r => .refused r

/-- One request presented to the block and served (R184): the block's own step does it. -/
def ask (i : Instr) (sys : System) : Host.Outcome System Fault Refusal :=
  andThen (step (presentNext (.present (encode i)) sys.block)) fun b => .next { sys with block := b }

/-- The block reset through its port (R173, R222). -/
def resetThroughPort (sys : System) : Host.Outcome System Fault Refusal :=
  andThen (step (presentNext .reset sys.block)) fun b => .next { sys with block := b }

/-- The packet of a build response, if it is one. -/
def builtPacket (r : Option Response) : List Bytes :=
  match r with
  | some (.packet p) => [p]
  | _ => []

/-- A build request, and the packet it returns written to the transport at once and unmodified (R172, R176, R227). -/
def buildAndWrite (i : Instr) (sys : System) : Host.Outcome System Fault Refusal :=
  andThen (ask i sys) fun t =>
    .next { t with host := { t.host with written := t.host.written ++ builtPacket t.block.response } }

/-- Entry to Running (R173, R174): the block is reset (log 15), then the initial Power-off and LED commands are sent. -/
def enterRunning (sys : System) : Host.Outcome System Fault Refusal :=
  andThen (resetThroughPort sys) fun s0 =>
    andThen (buildAndWrite (.cmdBuild 0x05#8 Config.powerOffArgs) s0) fun s1 =>
      andThen (buildAndWrite (.cmdBuild 0x0a#8 Config.ledArgs) s1) fun s2 =>
        .next { s2 with host := { s2.host with phase := .running } }

/-- Rumble feedback (R177, R179): where there is an axis tuple, the derived parameters are sent, but only when they differ
from the last sent; the comparison is on parameters, before anything is built (R226). -/
def rumbleFeedback (axes : Option AxisTuple) (sys : System) : Host.Outcome System Fault Refusal :=
  match axes with
  | none => .next sys
  | some ax =>
    if sys.host.lastRumble = some (Config.derive ax) then .next sys
    else
      andThen (buildAndWrite (.rumbleBuild (Config.derive ax)) sys) fun t =>
        .next { t with host := { t.host with lastRumble := some (Config.derive ax) } }

/-- The exit gesture (R181): SELECT or START active starts the hold-timer if it is not running; neither cancels it. -/
def gesture (now : Nat) (buttons : BitVec 15) (h : HostState) : HostState :=
  if buttons.getLsbD (buttonIndex .select) || buttons.getLsbD (buttonIndex .start) then
    { h with holdSince := some (h.holdSince.getD now) }
  else { h with holdSince := none }

/-- How long the gesture must be held: 2.0 seconds, in milliseconds (R181, log 19). -/
def holdToExit : Nat := 2000

/-- The transition to Draining, when the hold-timer has been active for at least `holdToExit` (R181, log 19). -/
def checkHold (now : Nat) (h : HostState) : HostState :=
  match h.holdSince with
  | some t => if t + holdToExit ≤ now then { h with phase := .draining } else h
  | none => h

/-- An INPUT report, decoded (R175): shown, then rumble feedback, then the exit gesture. -/
def handleInput (now : Nat) (f : InputReport) (sys : System) : Host.Outcome System Fault Refusal :=
  let shown := { sys with host := { sys.host with
    display := { sys.host.display with buttons := some f.buttons, numerics := some (f.profile, f.num) } } }
  andThen (rumbleFeedback f.axes shown) fun t => .next { t with host := gesture now f.buttons t.host }

/-- What the host does with a report, by the class the block answered (R175). -/
def dispatchReport (now : Nat) (buf : Bytes) (c : ReportClass) (sys : System) : Host.Outcome System Fault Refusal :=
  match c with
  | .ignored => .next sys
  | .other => .next { sys with host := { sys.host with dumped := sys.host.dumped ++ [buf] } }
  | .system =>
    andThen (ask (.sysDec buf) sys) fun t =>
      match t.block.response with
      | some (.systemReport ind) =>
        .next { t with host := { t.host with display := { t.host.display with indicator := some ind } } }
      | _ => .next t
  | .input =>
    andThen (ask (.rptDec buf) sys) fun t =>
      match t.block.response with
      | some (.inputReport f) => handleInput now f t
      | _ => .next t

/-- The display rendered again after processing (R175); the sequence value shown is SEQ.PEEK's, so that showing it
consumes nothing (R182, R225). -/
def renderDisplay (sys : System) : Host.Outcome System Fault Refusal :=
  andThen (ask .seqPeek sys) fun t =>
    match t.block.response with
    | some (.seqOut v) =>
      .next { t with host := { t.host with display := { t.host.display with lastSeq := some v } } }
    | _ => .next t

/-- One report read while Running (R175): classified by the block, handled by class, then rendered.
The report is not empty (R142). The read's `maxLen` is
not given (N11) and the model sets none: a report longer than MAX_REPORT_LEN cannot be presented (R73), so the event ends in
the block's refusal `cannotBePresented .bufTooLong` (DESIGN CHOICE, safe: log 21). -/
def handleReport (now : Nat) (buf : Bytes) (sys : System) : Host.Outcome System Fault Refusal :=
  andThen (ask (.rptClass buf) sys) fun t =>
    match t.block.response with
    | some (.cls c) => andThen (dispatchReport now buf c t) renderDisplay
    | _ => .next t

/-- The zero rumble command's operands: all motors off; the timing bytes are not in the source (R180). -/
def zeroRumble : RumbleParams :=
  ⟨0x00#8, 0x00#8, 0x00#8, 0x00#8, Config.zeroRumbleOn, Config.zeroRumbleOff, Config.zeroRumbleRep⟩

/-- A read that brought no data, a timeout: no error, the block is not called, only the hold-timer can expire (R175, R181). -/
def noData (now : Nat) (sys : System) : Host.Outcome System Fault Refusal := .next { sys with host := checkHold now sys.host }

/-- One event in Running (R175, R181). An empty read brought no data: it does not reach the dispatch (42_input_decoder.md
R142). -/
def runningStep (e : Event) (sys : System) : Host.Outcome System Fault Refusal :=
  match e with
  | .poll now (some (b :: rest)) =>
    andThen (handleReport now (b :: rest) sys) fun t => .next { t with host := checkHold now t.host }
  | .poll now (some []) => noData now sys
  | .poll now none => noData now sys
  | .deviceMissing => .next sys
  | .deviceFound => .next sys
  | .endpointsResolved => .next sys
  | .endpointUnresolved => .next sys
  | .writeFailed => .fault .transportWriteFailure

/-- One event in Connecting (R173, R183): polling for the device, the user told once. -/
def connectingStep (e : Event) (sys : System) : Host.Outcome System Fault Refusal :=
  match e with
  | .deviceFound => .next { sys with host := { sys.host with phase := .configuring } }
  | .deviceMissing => .next { sys with host := { sys.host with notFoundTold := true } }
  | .endpointsResolved => .next sys
  | .endpointUnresolved => .next sys
  | .poll _ _ => .next sys
  | .writeFailed => .fault .transportWriteFailure

/-- One event in Configuring (R173, R183): an unresolved endpoint is fatal. -/
def configuringStep (e : Event) (sys : System) : Host.Outcome System Fault Refusal :=
  match e with
  | .endpointsResolved => enterRunning sys
  | .endpointUnresolved => .fault .endpointResolutionFailure
  | .deviceMissing => .next sys
  | .deviceFound => .next sys
  | .poll _ _ => .next sys
  | .writeFailed => .fault .transportWriteFailure

/-- Draining (R180): the zero rumble command is sent, then the session has exited (log 19). Whether it counts as the last
sent is not said (R179): the model leaves the last-sent parameters as they were (DESIGN CHOICE, unsafe: log 22). -/
def drainingStep (e : Event) (sys : System) : Host.Outcome System Fault Refusal :=
  if e = .writeFailed then .fault .transportWriteFailure
  else
    andThen (buildAndWrite (.rumbleBuild zeroRumble) sys) fun t =>
      .next { t with host := { t.host with phase := .exited } }

/-- One event of the session (R173). Exited is terminal, but for the failure of the last write (R183). -/
def systemStep (e : Event) (sys : System) : Host.Outcome System Fault Refusal :=
  match sys.host.phase with
  | .connecting => connectingStep e sys
  | .configuring => configuringStep e sys
  | .running => runningStep e sys
  | .draining => drainingStep e sys
  | .exited => if e = .writeFailed then .fault .transportWriteFailure else .next sys

end Sys2Proof.Session
end

