-- ==== Sys2Proof/Safety.lean ====
section
/-! DEFINITION. The terms in which claims speak: which operations issue a sequence value (40_sequence_counter.md R112, R113),
which row has the effect of which of the nine operations (44_operation_classes.md R160), what a legal packet, response and
state are (41_packet_encoder.md R122, R123), and an unbroken run of written packets (43_host_session.md R176). -/

namespace Sys2Proof.Safety

open Sys2Proof.Machine

/-! ### Issuing operations -/

/-- The instruction issues a sequence value: SEQ.NEXT, a CMD.BUILD that ends OK, RUMBLE.BUILD (R112), and the names and
forms of those builds (R97, log 8). -/
def issues (i : Instr) : Bool :=
  match i with
  | .seqNext => true
  | .seqPeek => false
  | .cmdBuild cmd _ => isCommand cmd
  | .rumbleBuild _ => true
  | .s16Dec _ _ => false
  | .bitGet _ _ _ => false
  | .rptClass _ => false
  | .rptDec _ => false
  | .sysDec _ => false
  | .reserved9 => false
  | .reservedA => false
  | .reservedB => false
  | .reservedC => false
  | .reservedD => false
  | .reservedE => false
  | .reservedF => false
  | .rumble _ _ _ _ => true
  | .identify _ => true
  | .power _ => true
  | .auth _ => true
  | .led _ => true
  | .pktIdentify _ => true
  | .pktPower _ => true
  | .pktAuthenticate _ => true
  | .pktRumbleGeneric _ => true
  | .pktLed _ => true
  | .pktRumble _ => true
  | .rptInput _ => false
  | .rptSystem _ => false
  | .rptIgnored _ => false
  | .rptOther _ => false

/-- The sequence value a response shows: `seq_out`, or byte 2 of a packet (R76). -/
def shownValue (r : Option Response) : Option Byte :=
  match r with
  | some (.seqOut v) => some v
  | some (.packet p) => p[2]?
  | _ => none

/-- The instruction is a reserved operation code (R92). -/
def reservedCode (i : Instr) : Bool :=
  decide (i ∈ [Instr.reserved9, .reservedA, .reservedB, .reservedC, .reservedD, .reservedE, .reservedF])

/-- The instruction is a CMD.BUILD of a command id outside the enumeration (R192). -/
def unknownCommand (i : Instr) : Bool :=
  match i with
  | .cmdBuild cmd _ => !isCommand cmd
  | _ => false

/-- The operation, of the nine and the reserved codes, whose effect a row of the table has (R97, R160, logs 8 and 10). -/
def coreOperation (i : Instr) : Instr :=
  match i with
  | .seqNext => .seqNext
  | .seqPeek => .seqPeek
  | .cmdBuild cmd args => .cmdBuild cmd args
  | .rumbleBuild p => .rumbleBuild p
  | .s16Dec lo hi => .s16Dec lo hi
  | .bitGet buf byteIdx bitIdx => .bitGet buf byteIdx bitIdx
  | .rptClass buf => .rptClass buf
  | .rptDec buf => .rptDec buf
  | .sysDec buf => .sysDec buf
  | .reserved9 => .reserved9
  | .reservedA => .reservedA
  | .reservedB => .reservedB
  | .reservedC => .reservedC
  | .reservedD => .reservedD
  | .reservedE => .reservedE
  | .reservedF => .reservedF
  | .rumble lt rt ls rs => .rumbleBuild (defaultTiming lt rt ls rs)
  | .identify args => .cmdBuild 0x04#8 args
  | .power args => .cmdBuild 0x05#8 args
  | .auth args => .cmdBuild 0x06#8 args
  | .led args => .cmdBuild 0x0a#8 args
  | .pktIdentify args => .cmdBuild 0x04#8 args
  | .pktPower args => .cmdBuild 0x05#8 args
  | .pktAuthenticate args => .cmdBuild 0x06#8 args
  | .pktRumbleGeneric args => .cmdBuild 0x09#8 args
  | .pktLed args => .cmdBuild 0x0a#8 args
  | .pktRumble p => .rumbleBuild p
  | .rptInput rest => .rptDec (0x20#8 :: rest)
  | .rptSystem rest => .sysDec (0x07#8 :: rest)
  | .rptIgnored rest => .rptClass (0x03#8 :: rest)
  | .rptOther buf => .rptClass buf

/-- The instruction is one of the nine operations or a reserved code: it stands for itself. -/
def isCore (i : Instr) : Bool := decide (coreOperation i = i)

/-! ### Runs -/

/-- The instructions of a list, one after the other in order (R40, R25); ends at the first fault or refusal. -/
def runInstrs (is : List Instr) (s : State) : Host.Outcome State Fault Refusal :=
  match is with
  | [] => .next s
  | i :: rest =>
    match exec i s with
    | .next t => runInstrs rest t
    | .fault r => .fault r
    | .refused r => .refused r

/-- The sequence values the issuing instructions of a run show in their responses, in order (R113). -/
def issuedStream (is : List Instr) (s : State) : List (Option Byte) :=
  match is with
  | [] => []
  | i :: rest =>
    match exec i s with
    | .next t => if issues i then shownValue t.response :: issuedStream rest t else issuedStream rest t
    | .fault _ => []
    | .refused _ => []

/-! ### The integers of the rules -/

/-- SEQ after one issue, as a number: `(SEQ + 1) mod 256` (R110). -/
def nextCount (v : Byte) : Nat := (v.toNat + 1) % 256

/-- The signed 16-bit value of two bytes: `u = lo + 256 * hi`, less 0x10000 where `u >= 0x8000` (R140, R161 d). -/
def signedPair (lo hi : Byte) : Int :=
  if 0x8000 ≤ lo.toNat + 256 * hi.toNat then (lo.toNat + 256 * hi.toNat : Int) - 0x10000
  else (lo.toNat + 256 * hi.toNat : Int)

/-! ### Legal packets, responses and states -/

/-- A packet the block may emit: a header of 4 bytes and at most 255 more, the length byte right (R80, R122), a command id
of the enumeration and one of the two flags values (R81, R82, R123). -/
def packetLegal (p : Bytes) : Bool :=
  decide (4 ≤ p.length) && decide (p.length ≤ 259) && decide (p[3]? = some (BitVec.ofNat 8 (p.length - 4))) &&
    decide (∃ c ∈ commandIds, p[0]? = some c) && decide (p[1]? = some 0x20#8 ∨ p[1]? = some 0x00#8)

/-- The readings of an INPUT report are present from the first offset up to some point (R147). -/
def readingsPrefix (n : Readings) : Bool :=
  (n.rt.isSome → n.lt.isSome) && (n.lx.isSome → n.rt.isSome) && (n.ly.isSome → n.lx.isSome) &&
    (n.rx.isSome → n.ly.isSome) && (n.ry.isSome → n.rx.isSome)

/-- An INPUT result is consistent: the tuple is the readings' (R146), which are present in offset order, and the profile
byte is present only when all of them are (R147). -/
def inputReportLegal (f : InputReport) : Bool :=
  decide (f.axes = axisTuple f.num) && readingsPrefix f.num && (f.profile.isSome → f.num.ry.isSome)

/-- A response the block may return. -/
def responseLegal (r : Response) : Bool :=
  match r with
  | .packet p => packetLegal p
  | .inputReport f => inputReportLegal f
  | .seqOut _ => true
  | .s16 _ => true
  | .bit _ => true
  | .cls _ => true
  | .notInput => true
  | .notSystem => true
  | .systemReport _ => true
  | .illegalOp => true
  | .illegalCmd => true

/-- The invariant of the block: whatever response stands at its port is one it may return. -/
def stateLegal (s : State) : Bool :=
  match s.response with
  | none => true
  | some r => responseLegal r

/-! ### The session -/

/-- The host has not reached Running. -/
def beforeRunning (p : Session.Phase) : Bool := decide (p = .connecting ∨ p = .configuring)

/-- The packets written so far carry the sequence bytes 0, 1, 2, ... without gaps, and the block's counter stands at the
next (R176). -/
def sequenceUnbroken (sys : Session.System) : Bool :=
  if beforeRunning sys.host.phase then decide (sys.host.written = [])
  else
    decide (sys.host.written.map (fun p => p[2]?) =
      (List.range sys.host.written.length).map fun k => some (BitVec.ofNat 8 k)) &&
      decide (sys.block.seq = BitVec.ofNat 8 sys.host.written.length)

end Sys2Proof.Safety
end

