-- ==== Sys2Proof/Certificates/Slice0/Obligations.lean ====
section
/-! DEFINITION. The statements about the block, from the numbered rules of spec/. The block has no memory (20_memory.md R41), no
flags, no program counter and one register, SEQ: a frame says that SEQ and what waits at the request port are as before, or
how they change. -/

open Sys2Proof Sys2Proof.Machine Sys2Proof.Safety

/-! ### The sequence counter -/

/-- R110: op 0x0 is SEQ.NEXT, which returns SEQ and leaves `(SEQ + 1) mod 256`. -/
def Obligations.SeqNextReturnsThenIncrements : Prop :=
  (∀ r : Request, requestPresentable r = true → r.op = 0x0#4 → decode (.request r) = .ok .seqNext) ∧
  ∀ s : State, ∃ t, exec .seqNext s = .next t ∧ t.response = some (.seqOut s.seq) ∧
    t.response.map responseStatus = some .ok ∧ t.seq.toNat = nextCount s.seq ∧ t.inputs = s.inputs

/-- 40_sequence_counter.md, SEQ.PEEK: op 0x1 returns SEQ and leaves it. -/
def Obligations.SeqPeekReturnsAndKeeps : Prop :=
  (∀ r : Request, requestPresentable r = true → r.op = 0x1#4 → decode (.request r) = .ok .seqPeek) ∧
  ∀ s : State, exec .seqPeek s = .next { s with response := some (.seqOut s.seq) }

/-- 40_sequence_counter.md, laws of the family: a peek shows exactly the value an issuing instruction right after it
issues, whichever instruction that is. That a packet-form row issues at all is the model's choice (log 8). -/
def Obligations.PeekForeshowsTheNextIssue : Prop :=
  ∀ (i : Instr) (s : State), issues i = true →
    ∃ p t, exec .seqPeek s = .next p ∧ exec i p = .next t ∧ shownValue p.response = some s.seq ∧
      shownValue t.response = shownValue p.response

/-- 10_state.md, the invariant of SEQ, and 40_sequence_counter.md, the issued stream: over any run that begins with SEQ = 0, as after reset, the k-th issuing instruction issues `(k - 1) mod 256`
(position `k` of the stream counts from 0); in any run whatever, any 256 consecutive issues are distinct. The run itself
completes, and its stream has one value for each issuing instruction. That the packet-form rows count among the issuing
instructions is the model's choice (log 8). -/
def Obligations.IssuedStreamCountsModulo256 : Prop :=
  ∀ (is : List Instr) (s : State),
    (∃ t, runInstrs is s = .next t) ∧ (issuedStream is s).length = is.countP issues ∧
    (s.seq = 0x00#8 → ∀ (k : Nat) (v : Option Byte), (issuedStream is s)[k]? = some v →
      ∃ b : Byte, v = some b ∧ b.toNat = k % 256) ∧
    ∀ (j k : Nat) (v w : Option Byte), j < k → k < j + 256 → (issuedStream is s)[j]? = some v →
      (issuedStream is s)[k]? = some w → v ≠ w

/-- 10_state.md, the access table: exactly the issuing instructions advance SEQ, by one modulo 256; no other changes it.
That a packet-form row issues like its build is the model's choice (log 8). -/
def Obligations.OnlyIssuingInstructionsAdvanceSeq : Prop :=
  ∀ (i : Instr) (s t : State), exec i s = .next t →
    t.seq.toNat = if issues i then nextCount s.seq else s.seq.toNat

/-- 10_state.md: no step writes an arbitrary value to SEQ; it stays, advances by one, or is reset. -/
def Obligations.StepOnlyAdvancesOrResetsSeq : Prop :=
  ∀ s t : State, step s = .next t →
    t.seq = s.seq ∨ t.seq.toNat = nextCount s.seq ∨ (t.seq = 0x00#8 ∧ ∃ rest, s.inputs = .reset :: rest)

/-! ### The packet encoder -/

/-- 41_packet_encoder.md, CMD.BUILD: a command id of the enumeration and up to 255 argument bytes give the packet
`[cmd, 0x20, SEQ, argc] ++ args`, and SEQ advances by one. -/
def Obligations.CmdBuildFramesEveryCommand : Prop :=
  (∀ r : Request, requestPresentable r = true → r.op = 0x2#4 → decode (.request r) = .ok (.cmdBuild r.cmd r.args)) ∧
  ∀ (cmd argc : Byte) (args : Bytes) (s : State),
    cmd ∈ [0x04#8, 0x05#8, 0x06#8, 0x09#8, 0x0a#8] → args.length = argc.toNat →
    ∃ t, exec (.cmdBuild cmd args) s = .next t ∧ t.response = some (.packet ([cmd, 0x20#8, s.seq, argc] ++ args)) ∧
      t.seq.toNat = nextCount s.seq ∧ t.inputs = s.inputs

/-- 41_packet_encoder.md and 60_exceptions.md, ILLEGAL_CMD: any other command id is refused; no packet, SEQ unchanged. -/
def Obligations.CmdBuildRefusesUnknownCommand : Prop :=
  ∀ (cmd : Byte) (args : Bytes) (s : State), cmd ∉ [0x04#8, 0x05#8, 0x06#8, 0x09#8, 0x0a#8] →
    exec (.cmdBuild cmd args) s = .next { s with response := some .illegalCmd } ∧
      responseStatus .illegalCmd = .illegalCmd ∧ statusCode .illegalCmd = 2#2

/-- R84: the rumble packet, byte by byte, for every seven operand bytes; SEQ advances by one. -/
def Obligations.RumbleBuildEmitsThirteenBytes : Prop :=
  (∀ r : Request, requestPresentable r = true → r.op = 0x3#4 → decode (.request r) = .ok (.rumbleBuild r.motors)) ∧
  ∀ (lt rt ls rs on off rep : Byte) (s : State), ∃ t, exec (.rumbleBuild ⟨lt, rt, ls, rs, on, off, rep⟩) s = .next t ∧
    t.response = some (.packet
      [0x09#8, 0x00#8, s.seq, 0x09#8, 0x00#8, 0x0f#8, lt, rt, ls, rs, on, off, rep]) ∧
    t.seq.toNat = nextCount s.seq ∧ t.inputs = s.inputs

/-- R122: the length byte of every packet is its length less 4; CMD.BUILD's is its argument count, RUMBLE.BUILD's is 9. -/
def Obligations.LengthByteIsTotalMinusFour : Prop :=
  (∀ (i : Instr) (s t : State) (p : Bytes), i.wf = true → exec i s = .next t → t.response = some (.packet p) →
    ∃ n : Byte, p[3]? = some n ∧ p.length = n.toNat + 4) ∧
  (∀ (cmd : Byte) (args : Bytes) (s : State), args.length ≤ 255 → cmd ∈ [0x04#8, 0x05#8, 0x06#8, 0x09#8, 0x0a#8] →
    ∃ t p n, exec (.cmdBuild cmd args) s = .next t ∧ t.response = some (.packet p) ∧ p[3]? = some n ∧
      n.toNat = args.length ∧ p.length = 4 + args.length) ∧
  ∀ (m : RumbleParams) (s : State), ∃ t p, exec (.rumbleBuild m) s = .next t ∧ t.response = some (.packet p) ∧
    p[3]? = some 0x09#8 ∧ p.length = 13

/-- R81: the flags byte takes exactly two values: 0x20 in every packet CMD.BUILD builds, 0x00 in every packet RUMBLE.BUILD
builds. -/
def Obligations.FlagsByteTellsTheBuilder : Prop :=
  (∀ (i : Instr) (s t : State) (p : Bytes), exec i s = .next t → t.response = some (.packet p) →
    p[1]? = some 0x20#8 ∨ p[1]? = some 0x00#8) ∧
  (∀ (cmd : Byte) (args : Bytes) (s : State), cmd ∈ [0x04#8, 0x05#8, 0x06#8, 0x09#8, 0x0a#8] →
    ∃ t p, exec (.cmdBuild cmd args) s = .next t ∧ t.response = some (.packet p) ∧ p[1]? = some 0x20#8) ∧
  ∀ (m : RumbleParams) (s : State), ∃ t p, exec (.rumbleBuild m) s = .next t ∧ t.response = some (.packet p) ∧
    p[1]? = some 0x00#8

/-- 41_packet_encoder.md, the header law, over every row of the table: a packet's id is of the enumeration, its sequence
byte is SEQ before the instruction, it has 4 to 259 bytes, and SEQ after is one more. -/
def Obligations.EveryPacketCarriesLegalHeader : Prop :=
  ∀ (i : Instr) (s t : State) (p : Bytes), i.wf = true → exec i s = .next t → t.response = some (.packet p) →
    (∃ c ∈ [0x04#8, 0x05#8, 0x06#8, 0x09#8, 0x0a#8], p[0]? = some c) ∧ p[2]? = some s.seq ∧ 4 ≤ p.length ∧
      p.length ≤ 259 ∧ t.seq.toNat = nextCount s.seq

/-- 41_packet_encoder.md, CMD.BUILD with the Rumble id: given the nine payload bytes of a rumble packet it emits the
rumble packet but for the flags byte. -/
def Obligations.GenericRumbleDiffersOnlyInFlags : Prop :=
  ∀ (m : RumbleParams) (s : State), ∃ t u p,
    exec (.rumbleBuild m) s = .next t ∧ t.response = some (.packet p) ∧
    exec (.cmdBuild 0x09#8 (p.drop 4)) s = .next u ∧ u.response = some (.packet (p.set 1 0x20#8)) ∧ t.seq = u.seq

/-- 30_encoding.md, section 7: the pseudo-instructions, as the requests they expand to. -/
def Obligations.PseudoInstructionsAreTheirExpansions : Prop :=
  (∀ (lt rt ls rs : Byte) (s : State), ∃ t, exec (.rumble lt rt ls rs) s = .next t ∧
    t.response = some (.packet [0x09#8, 0x00#8, s.seq, 0x09#8, 0x00#8, 0x0f#8, lt, rt, ls, rs, 0xff#8, 0x00#8, 0xff#8]) ∧
    t.seq.toNat = nextCount s.seq ∧ t.inputs = s.inputs) ∧
  ∀ (argc : Byte) (args : Bytes) (s : State), args.length = argc.toNat →
    ∀ row ∈ [(Instr.identify args, 0x04#8), (Instr.power args, 0x05#8), (Instr.auth args, 0x06#8), (Instr.led args, 0x0a#8)],
      ∃ t, exec row.1 s = .next t ∧ t.response = some (.packet ([row.2, 0x20#8, s.seq, argc] ++ args)) ∧
        t.seq.toNat = nextCount s.seq ∧ t.inputs = s.inputs

/-- 30_encoding.md, section 3: the six packet forms of the table. That a form's row has the effect of the build that emits
the form is the model's choice (log 8). -/
def Obligations.PacketFormsAreEmittedByBuilds : Prop :=
  (∀ (lt rt ls rs on off rep : Byte) (s : State), ∃ t, exec (.pktRumble ⟨lt, rt, ls, rs, on, off, rep⟩) s = .next t ∧
    t.response = some (.packet [0x09#8, 0x00#8, s.seq, 0x09#8, 0x00#8, 0x0f#8, lt, rt, ls, rs, on, off, rep]) ∧
    t.seq.toNat = nextCount s.seq ∧ t.inputs = s.inputs) ∧
  ∀ (argc : Byte) (args : Bytes) (s : State), args.length = argc.toNat →
    ∀ row ∈ [(Instr.pktIdentify args, 0x04#8), (Instr.pktPower args, 0x05#8), (Instr.pktAuthenticate args, 0x06#8),
             (Instr.pktRumbleGeneric args, 0x09#8), (Instr.pktLed args, 0x0a#8)],
      ∃ t, exec row.1 s = .next t ∧ t.response = some (.packet ([row.2, 0x20#8, s.seq, argc] ++ args)) ∧
        t.seq.toNat = nextCount s.seq ∧ t.inputs = s.inputs

/-! ### The input decoder -/

/-- R140: op 0x4 is S16.DEC; the pattern is `lo + 256 * hi`, and values of 0x8000 and more are negative by 0x10000. -/
def Obligations.S16DecIsTwosComplement : Prop :=
  (∀ r : Request, requestPresentable r = true → r.op = 0x4#4 → decode (.request r) = .ok (.s16Dec r.lo r.hi)) ∧
  ∀ (lo hi : Byte) (s : State), ∃ v : Reading,
    exec (.s16Dec lo hi) s = .next { s with response := some (.s16 v) } ∧ responseStatus (.s16 v) = .ok ∧
      v.toNat = (lo.toNat ||| (hi.toNat <<< 8)) ∧ v.toInt = signedPair lo hi ∧ (v.toInt < 0 ↔ 0x80 ≤ hi.toNat)

/-- 42_input_decoder.md, laws of S16: it inverts the little-endian encoding of every integer of the signed 16-bit range,
and every pair of bytes is the encoding of its value. -/
def Obligations.S16DecInvertsLittleEndian : Prop :=
  (∀ (v : Int) (s : State), -32768 ≤ v → v ≤ 32767 → ∃ w : Reading,
    exec (.s16Dec (BitVec.ofNat 8 ((v % 65536).toNat % 256)) (BitVec.ofNat 8 ((v % 65536).toNat / 256))) s =
      .next { s with response := some (.s16 w) } ∧ w.toInt = v) ∧
  ∀ (lo hi : Byte) (s : State), ∃ w : Reading, exec (.s16Dec lo hi) s = .next { s with response := some (.s16 w) } ∧
    BitVec.ofNat 8 ((w.toInt % 65536).toNat % 256) = lo ∧ BitVec.ofNat 8 ((w.toInt % 65536).toNat / 256) = hi

/-- R45, through op 0x5, BIT.GET: beyond the buffer the bit is `false`, inside it is `((buf[i] >> k) & 1) = 1`. -/
def Obligations.BitGetTestsBitOrAnswersFalse : Prop :=
  (∀ r : Request, requestPresentable r = true → r.op = 0x5#4 →
    decode (.request r) = .ok (.bitGet r.buf r.byteIdx r.bitIdx)) ∧
  ∀ (buf : Bytes) (i : Nat) (k : BitVec 3) (s : State),
    (buf.length ≤ i → exec (.bitGet buf i k) s = .next { s with response := some (.bit false) }) ∧
    ∀ h : i < buf.length, exec (.bitGet buf i k) s =
      .next { s with response := some (.bit (decide ((buf[i].toNat >>> k.toNat) &&& 1 = 1))) }

/-- 42_input_decoder.md, laws of BIT.GET: the eight bits of a byte inside the buffer recover it. -/
def Obligations.EightBitGetsRecoverTheByte : Prop :=
  ∀ (buf : Bytes) (i : Nat) (s : State) (h : i < buf.length), ∃ bit : BitVec 3 → Bool,
    (∀ k, exec (.bitGet buf i k) s = .next { s with response := some (.bit (bit k)) }) ∧
      buf[i].toNat = ((List.range 8).map fun k => if bit (BitVec.ofNat 3 k) then 2 ^ k else 0).sum

/-- 42_input_decoder.md, RPT.CLASS: op 0x6 classifies by byte 0 alone; the empty report is OTHER. -/
def Obligations.RptClassReadsOnlyTheTypeByte : Prop :=
  (∀ r : Request, requestPresentable r = true → r.op = 0x6#4 → decode (.request r) = .ok (.rptClass r.buf)) ∧
  (∀ s : State, exec (.rptClass []) s = .next { s with response := some (.cls .other) }) ∧
  ∀ (t : Byte) (rest : Bytes) (s : State), exec (.rptClass (t :: rest)) s = .next { s with response := some (.cls
    (if t = 0x20#8 then .input else if t = 0x07#8 then .system else if t = 0x03#8 then .ignored else .other)) }

/-- 42_input_decoder.md, the gate: op 0x7 answers NotInput, whatever else the report holds, unless byte 0 is 0x20; then it
answers an INPUT result. -/
def Obligations.RptDecGatesOnTheTypeByte : Prop :=
  (∀ r : Request, requestPresentable r = true → r.op = 0x7#4 → decode (.request r) = .ok (.rptDec r.buf)) ∧
  ∀ (buf : Bytes) (s : State),
    (buf[0]? ≠ some 0x20#8 → exec (.rptDec buf) s = .next { s with response := some .notInput }) ∧
    (buf[0]? = some 0x20#8 → ∃ f, exec (.rptDec buf) s = .next { s with response := some (.inputReport f) })

/-- R144: the fifteen flags of an INPUT report: display index, byte, bit; an absent byte reads inactive. -/
def Obligations.ButtonsFollowTheTable : Prop :=
  ∀ (buf : Bytes) (s : State), buf[0]? = some 0x20#8 →
    ∃ f, exec (.rptDec buf) s = .next { s with response := some (.inputReport f) } ∧
      ∀ row ∈ [(0, 4, 3), (1, 4, 2), (2, 22, 0), (3, 4, 4), (4, 4, 5), (5, 4, 6), (6, 4, 7), (7, 5, 2), (8, 5, 3),
               (9, 5, 0), (10, 5, 1), (11, 5, 4), (12, 5, 5), (13, 5, 6), (14, 5, 7)],
        (f.buttons.getLsbD row.1 = true ↔ ∃ b : Byte, buf[row.2.1]? = some b ∧ b.getLsbD row.2.2 = true)

/-- 30_encoding.md, the numeric table, and 42_input_decoder.md, numeric extraction: the profile byte and the six readings,
each present exactly when all its bytes are inside the buffer, and then the signed little-endian value at its offset. -/
def Obligations.ReadingsFollowTheTable : Prop :=
  ∀ (buf : Bytes) (s : State), buf[0]? = some 0x20#8 →
    ∃ f, exec (.rptDec buf) s = .next { s with response := some (.inputReport f) } ∧ f.profile = buf[34]? ∧
      ∀ row ∈ [(f.num.lt, 6), (f.num.rt, 8), (f.num.lx, 10), (f.num.ly, 12), (f.num.rx, 14), (f.num.ry, 16)],
        row.1.map BitVec.toInt =
          if row.2 + 1 < buf.length then some (signedPair (buf.getD row.2 0) (buf.getD (row.2 + 1) 0)) else none

/-- R89: the axis tuple is the readings in the order LX, LY, RX, RY, LT, RT; a report of 18 bytes has one. -/
def Obligations.AxisTupleReordersTheReadings : Prop :=
  ∀ (buf : Bytes) (s : State), buf[0]? = some 0x20#8 →
    ∃ f, exec (.rptDec buf) s = .next { s with response := some (.inputReport f) } ∧
      (18 ≤ buf.length → f.axes.isSome = true) ∧
      ∀ a, f.axes = some a → some a.lx = f.num.lx ∧ some a.ly = f.num.ly ∧ some a.rx = f.num.rx ∧
        some a.ry = f.num.ry ∧ some a.lt = f.num.lt ∧ some a.rt = f.num.rt

/-- 42_input_decoder.md, short INPUT reports: what can be there at each length, for every length. -/
def Obligations.TruncatedReportsLoseFieldsInOrder : Prop :=
  ∀ (buf : Bytes) (s : State), buf[0]? = some 0x20#8 →
    ∃ f, exec (.rptDec buf) s = .next { s with response := some (.inputReport f) } ∧
      (f.profile.isSome = true ↔ 35 ≤ buf.length) ∧ (f.num.lt.isSome = true ↔ 8 ≤ buf.length) ∧
      (f.num.rt.isSome = true ↔ 10 ≤ buf.length) ∧ (f.num.lx.isSome = true ↔ 12 ≤ buf.length) ∧
      (f.num.ly.isSome = true ↔ 14 ≤ buf.length) ∧ (f.num.rx.isSome = true ↔ 16 ≤ buf.length) ∧
      (f.num.ry.isSome = true ↔ 18 ≤ buf.length) ∧ (f.axes.isSome = true ↔ 18 ≤ buf.length) ∧
      (f.buttons.getLsbD 2 = true → 23 ≤ buf.length) ∧
      (∀ k ∈ [7, 8, 9, 10, 11, 12, 13, 14], f.buttons.getLsbD k = true → 6 ≤ buf.length) ∧
      ∀ k ∈ [0, 1, 3, 4, 5, 6], f.buttons.getLsbD k = true → 5 ≤ buf.length

/-- R148: the result of RPT.DEC on an INPUT report depends only on its length, on bytes 4, 5, 6 to 17 and 34, and on bit 0
of byte 22. -/
def Obligations.UnreadReportBytesDoNotMatter : Prop :=
  ∀ (buf buf' : Bytes) (s : State), buf[0]? = some 0x20#8 → buf'[0]? = some 0x20#8 → buf.length = buf'.length →
    (∀ i ∈ [4, 5, 6, 7, 8, 9, 10, 11, 12, 13, 14, 15, 16, 17, 34], buf[i]? = buf'[i]?) →
    (buf[22]?.map fun x => x.getLsbD 0) = (buf'[22]?.map fun x => x.getLsbD 0) →
    ∃ f, exec (.rptDec buf) s = .next { s with response := some (.inputReport f) } ∧
      exec (.rptDec buf') s = exec (.rptDec buf) s

/-- 42_input_decoder.md, SYS.DEC: op 0x8; the indicator of a SYSTEM report is active exactly when its byte 4 is there and
is not zero. -/
def Obligations.SysDecReadsTheWholeIndicatorByte : Prop :=
  (∀ r : Request, requestPresentable r = true → r.op = 0x8#4 → decode (.request r) = .ok (.sysDec r.buf)) ∧
  ∀ (buf : Bytes) (s : State),
    (buf[0]? ≠ some 0x07#8 → exec (.sysDec buf) s = .next { s with response := some .notSystem }) ∧
    (buf[0]? = some 0x07#8 → ∃ ind, exec (.sysDec buf) s = .next { s with response := some (.systemReport ind) } ∧
      (ind = true ↔ ∃ x : Byte, buf[4]? = some x ∧ x.toNat ≠ 0))

/-- 42_input_decoder.md, agreement of the three report operations, on every buffer. -/
def Obligations.ReportOperationsAgree : Prop :=
  ∀ (buf : Bytes) (s : State), ∃ c d y,
    exec (.rptClass buf) s = .next { s with response := some (.cls c) } ∧
    exec (.rptDec buf) s = .next { s with response := some d } ∧
    exec (.sysDec buf) s = .next { s with response := some y } ∧
    (c = .input ↔ ∃ f, d = .inputReport f) ∧ (c ≠ .input ↔ d = .notInput) ∧
    (c = .system ↔ ∃ ind, y = .systemReport ind) ∧ (c ≠ .system ↔ y = .notSystem)

/-- 42_input_decoder.md, agreement with the primitive operations: each button of RPT.DEC is BIT.GET's answer at its place,
and each present reading is S16.DEC's answer on its two bytes. -/
def Obligations.RptDecAgreesWithThePrimitives : Prop :=
  ∀ (buf : Bytes) (s : State), buf[0]? = some 0x20#8 →
    ∃ f, exec (.rptDec buf) s = .next { s with response := some (.inputReport f) } ∧
      (∀ k : Button, exec (.bitGet buf (buttonPlace k).1 (BitVec.ofNat 3 (buttonPlace k).2)) s =
        .next { s with response := some (.bit (f.buttons.getLsbD (buttonIndex k))) }) ∧
      ∀ row ∈ [(f.num.lt, Axis.lt), (f.num.rt, Axis.rt), (f.num.lx, Axis.lx), (f.num.ly, Axis.ly), (f.num.rx, Axis.rx),
               (f.num.ry, Axis.ry)],
        ∀ v, row.1 = some v →
          exec (.s16Dec (buf.getD (axisOffset row.2) 0) (buf.getD (axisOffset row.2 + 1) 0)) s =
            .next { s with response := some (.s16 v) }

/-- 30_encoding.md, section 4: the four report classes of the table, each handed to the operation its row's rule names. That
the row has that operation's effect is the model's choice (log 10). -/
def Obligations.ReportRowsRunTheirOperation : Prop :=
  (∀ (rest : Bytes) (s : State), ∃ f, exec (.rptInput rest) s = .next { s with response := some (.inputReport f) } ∧
    exec (.rptDec (0x20#8 :: rest)) s = exec (.rptInput rest) s) ∧
  (∀ (rest : Bytes) (s : State), ∃ ind, exec (.rptSystem rest) s = .next { s with response := some (.systemReport ind) } ∧
    (ind = true ↔ ∃ x : Byte, rest[3]? = some x ∧ x.toNat ≠ 0)) ∧
  (∀ (rest : Bytes) (s : State), exec (.rptIgnored rest) s = .next { s with response := some (.cls .ignored) }) ∧
  ∀ (buf : Bytes) (s : State), Instr.wf (.rptOther buf) = true →
    exec (.rptOther buf) s = .next { s with response := some (.cls .other) }

/-! ### Refusals and the set as a whole -/

/-- 60_exceptions.md, ILLEGAL_OP: each of the seven reserved codes is refused, with no effect but the response. -/
def Obligations.ReservedCodesAreRefused : Prop :=
  (∀ r : Request, requestPresentable r = true → 0x9 ≤ r.op.toNat →
    ∃ i ∈ [Instr.reserved9, .reservedA, .reservedB, .reservedC, .reservedD, .reservedE, .reservedF],
      decode (.request r) = .ok i) ∧
  ∀ (s : State), ∀ i ∈ [Instr.reserved9, .reservedA, .reservedB, .reservedC, .reservedD, .reservedE, .reservedF],
    exec i s = .next { s with response := some .illegalOp } ∧ statusCode (responseStatus .illegalOp) = 1#2

/-- 60_exceptions.md, section 6: every instruction answers, with a response, and takes nothing from the request port. For the packet-form and report rows that they answer at all is the model's choice
(logs 8 and 10). -/
def Obligations.EveryInstructionAnswers : Prop :=
  ∀ (i : Instr) (s : State), ∃ q r, exec i s = .next { seq := q, inputs := s.inputs, response := some r }

/-- 60_exceptions.md, the cause table: a status other than OK comes exactly from the reserved codes and from a CMD.BUILD of
an unknown command; it leaves SEQ and the request port as they were; code 3 never appears. -/
def Obligations.RefusalsHaveTwoCausesAndNoEffect : Prop :=
  ∀ (i : Instr) (s t : State) (r : Response), exec i s = .next t → t.response = some r →
    (responseStatus r = .illegalOp ↔ reservedCode i = true) ∧
    (responseStatus r = .illegalCmd ↔ unknownCommand i = true) ∧
    (responseStatus r ≠ .ok → t = { s with response := some r }) ∧ (responseRecord r).status ≠ 3#2

/-- 10_state.md: a response and the new SEQ are a function of SEQ and the request, and of nothing else: not of the response
before, nor of what waits at the port. -/
def Obligations.ResponsesDependOnlyOnSeqAndRequest : Prop :=
  ∀ (i : Instr) (s u : State), s.seq = u.seq → ∃ q r,
    exec i s = .next { seq := q, inputs := s.inputs, response := some r } ∧
    exec i u = .next { seq := q, inputs := u.inputs, response := some r }

/-- 44_operation_classes.md, the set: every row of the table has the effect of one of the nine operations or of a reserved
code. For the packet-form and report rows that is the model's choice (logs 8 and 10). -/
def Obligations.EveryRowIsACoreOperation : Prop :=
  ∀ (i : Instr) (s : State), i.wf = true →
    exec (coreOperation i) s = exec i s ∧ (coreOperation i).wf = true ∧ isCore (coreOperation i) = true ∧
      ∃ r : Request, encode (coreOperation i) = .request r

/-- 30_encoding.md, the response record and presence: the status code of a response, and for every field exactly which
responses have it and with which value; the data of an absent value are absent (log 14). -/
def Obligations.ResponseRecordSaysWhatIsPresent : Prop :=
  ∀ r : Response,
    (responseRecord r).status = (if r = .illegalOp then 1#2 else if r = .illegalCmd then 2#2 else 0#2) ∧
    (∀ v, (responseRecord r).seqOut = some v ↔ r = .seqOut v) ∧
    (∀ p, (responseRecord r).pkt = some p ↔ r = .packet p) ∧
    (∀ n, (responseRecord r).pktLen = some n ↔ ∃ p, r = .packet p ∧ n = p.length) ∧
    (∀ v, (responseRecord r).s16 = some v ↔ r = .s16 v) ∧
    (∀ b, (responseRecord r).bit = some b ↔ r = .bit b) ∧
    (∀ k, (responseRecord r).cls = some k ↔
      ∃ row ∈ [(ReportClass.other, 0#2), (.input, 1#2), (.system, 2#2), (.ignored, 3#2)], r = .cls row.1 ∧ k = row.2) ∧
    ((responseRecord r).isInput = some false ↔ r = .notInput) ∧
    ((responseRecord r).isInput = some true ↔ ∃ f, r = .inputReport f) ∧
    ((responseRecord r).isSystem = some false ↔ r = .notSystem) ∧
    ((responseRecord r).isSystem = some true ↔ ∃ ind, r = .systemReport ind) ∧
    (∀ ind, (responseRecord r).indicator = some ind ↔ r = .systemReport ind) ∧
    ((responseRecord r).isInput ≠ some true →
      (responseRecord r).buttons = none ∧ (responseRecord r).profileV = none ∧ (responseRecord r).profile = none ∧
      (responseRecord r).numV = none ∧ (responseRecord r).num = none ∧ (responseRecord r).axesV = none ∧
      (responseRecord r).axes = none) ∧
    ∀ f, r = .inputReport f →
      (responseRecord r).buttons = some f.buttons ∧ (responseRecord r).profileV = some f.profile.isSome ∧
      (responseRecord r).profile = f.profile ∧ (responseRecord r).num = some f.num ∧
      (responseRecord r).axesV = some f.axes.isSome ∧ (responseRecord r).axes = f.axes ∧
      ∃ v, (responseRecord r).numV = some v ∧
        ∀ row ∈ [(0, f.num.lt), (1, f.num.rt), (2, f.num.lx), (3, f.num.ly), (4, f.num.rx), (5, f.num.ry)],
          v.getLsbD row.1 = row.2.isSome

/-! ### Steps, reset and the invariant -/

/-- 20_memory.md, processing order: a step serves the oldest input; what decodes runs, as `exec` says, on the state without
that input. -/
def Obligations.StepRunsTheDecodedInstruction : Prop :=
  ∀ (s : State) (c : Code) (rest : List Input) (i : Instr), s.inputs = .present c :: rest → decode c = .ok i →
    step s = exec i { s with inputs := rest } ∧ i.wf = true

/-- 30_encoding.md and 60_exceptions.md: what cannot be presented is refused by name, and only that is: a presentable request,
packet image or report is never turned away. The model's choices: the refusal by name (log 6), that a packet image or a
report is presented by itself (logs 8 and 10), and which packet images can be: those of a form (log 9). -/
def Obligations.StepRefusesOnlyWhatCannotBePresented : Prop :=
  ∀ (s : State) (c : Code) (rest : List Input), s.inputs = .present c :: rest →
    (codePresentable c = false → ∃ e, step s = .refused (.cannotBePresented e)) ∧
    (codePresentable c = true → ∃ t, step s = .next t ∧ t.inputs = rest)

/-- 70_reset_and_hazards.md, reset: a reset between operations makes SEQ 0 and retains no response; the first value issued
after it is 0. That what waits at the port stays is the model's choice (log 3). -/
def Obligations.ResetZeroesSeq : Prop :=
  (∀ (s : State) (rest : List Input), s.inputs = .reset :: rest →
    step s = .next { seq := 0x00#8, inputs := rest, response := none }) ∧
  ∃ t, exec .seqNext State.reset = .next t ∧ t.response = some (.seqOut 0x00#8) ∧ t.seq = 0x01#8

/-- 60_exceptions.md, interrupts: nothing happens in the block except in response to what is presented. -/
def Obligations.NothingHappensUnasked : Prop :=
  ∀ s : State, s.inputs = [] → step s = .next s

/-- The invariant: from any state whose response is one the block may return, every step leads to such a state. Packets have
the right length byte, a legal id and flags; INPUT results are consistent (41_packet_encoder.md and 42_input_decoder.md). -/
def Obligations.StepKeepsResponsesLegal : Prop :=
  ∀ s t : State, stateLegal s = true → step s = .next t → stateLegal t = true

/-- The state after reset, field by field: SEQ as 10_state.md gives it, the two ports empty by the model's choice (logs 1
and 2); it meets the invariant. -/
def Obligations.ResetStateIsLegal : Prop :=
  State.reset = { seq := 0x00#8, inputs := [], response := none } ∧ stateLegal State.reset = true

/-! ### Encodings -/

/-- Decoding the encoding of any well-formed instruction gives it back; a pseudo-instruction gives its expansion. -/
def Obligations.DecodeInvertsEncode : Prop :=
  ∀ i : Instr, i.wf = true → decode (encode i) = .ok (expandPseudo i)

/-- What decodes is well-formed, and its encoding says the same again. -/
def Obligations.DecodedInstructionsAreCanonical : Prop :=
  ∀ (c : Code) (i : Instr), decode c = .ok i → i.wf = true ∧ expandPseudo i = i ∧ decode (encode i) = .ok i

/-- 30_encoding.md, operands used by each operation: two presentable requests that agree in `op` and in the fields that
operation reads decode to the same instruction, whatever the other fields hold. -/
def Obligations.UnusedRequestFieldsAreIgnored : Prop :=
  ∀ r q : Request, requestPresentable r = true → requestPresentable q = true → r.op = q.op →
    (r.op = 0x2#4 → r.cmd = q.cmd ∧ r.args = q.args) → (r.op = 0x3#4 → r.motors = q.motors) →
    (r.op = 0x4#4 → r.lo = q.lo ∧ r.hi = q.hi) → (r.op = 0x5#4 → r.byteIdx = q.byteIdx ∧ r.bitIdx = q.bitIdx) →
    (r.op ∈ [0x5#4, 0x6#4, 0x7#4, 0x8#4] → r.buf = q.buf) →
    ∃ i, decode (.request r) = .ok i ∧ decode (.request q) = .ok i

/-- A few words written out from the spec's encodings decode to what they stand for: requests by `op` (program P1 of
95_test_vectors.md), packet forms by their first two bytes, reports by their type byte. How a word of the opcode table is
read, the last two clauses, is the model's choice (log 11). -/
def Obligations.SampleWordsDecode : Prop :=
  decode (.request { blankRequest with op := 0x2#4, cmd := 0x0a#8, argc := 0x03#8, args := [0x00#8, 0x01#8, 0x14#8] }) =
    .ok (.cmdBuild 0x0a#8 [0x00#8, 0x01#8, 0x14#8]) ∧
  decode (.request { blankRequest with op := 0x3#4, motors := ⟨0x10#8, 0x20#8, 0x30#8, 0x40#8, 0xff#8, 0x00#8, 0xff#8⟩ }) =
    .ok (.rumbleBuild ⟨0x10#8, 0x20#8, 0x30#8, 0x40#8, 0xff#8, 0x00#8, 0xff#8⟩) ∧
  decode (.packet [0x06#8, 0x20#8, 0xfe#8, 0x03#8, 0xaa#8, 0xbb#8, 0xcc#8]) =
    .ok (.pktAuthenticate [0xaa#8, 0xbb#8, 0xcc#8]) ∧
  decode (.report [0x07#8, 0x20#8, 0x00#8, 0x01#8, 0x01#8]) = .ok (.rptSystem [0x20#8, 0x00#8, 0x01#8, 0x01#8]) ∧
  decodeTableWord 8 0x6 = some (.rptClass []) ∧ decodeTableWord 16 0x0a20 = some (.pktLed [])

/-- 30_encoding.md, sections 3 and 6, and the opcode table's packet forms: which bytes are an image of which form, for every
value of every byte, and how the others are refused. That an image is one whole packet, whose sequence byte and two rumble
constants the decoder ignores, is the model's choice (logs 8 and 9). -/
def Obligations.PacketImagesDecodeByForm : Prop :=
  (∀ image : Bytes, (∀ n : Byte, image[3]? = some n → image.length ≠ 4 + n.toNat) →
    decode (.packet image) = .rejected .packetLength) ∧
  (∀ (id flags seq n : Byte) (payload : Bytes), payload.length = n.toNat →
    (∀ row ∈ [(0x04#8, Instr.pktIdentify payload), (0x05#8, .pktPower payload), (0x06#8, .pktAuthenticate payload),
              (0x09#8, .pktRumbleGeneric payload), (0x0a#8, .pktLed payload)],
      id = row.1 → flags = 0x20#8 → decode (.packet ([id, flags, seq, n] ++ payload)) = .ok row.2) ∧
    (id ∉ [0x04#8, 0x05#8, 0x06#8, 0x09#8, 0x0a#8] → flags = 0x20#8 →
      decode (.packet ([id, flags, seq, n] ++ payload)) = .rejected .packetForm) ∧
    (id ≠ 0x09#8 → flags = 0x00#8 → decode (.packet ([id, flags, seq, n] ++ payload)) = .rejected .packetForm) ∧
    (id = 0x09#8 → flags = 0x00#8 → n ≠ 0x09#8 →
      decode (.packet ([id, flags, seq, n] ++ payload)) = .rejected .packetLength) ∧
    (flags ≠ 0x20#8 → flags ≠ 0x00#8 → decode (.packet ([id, flags, seq, n] ++ payload)) = .rejected .packetForm)) ∧
  ∀ seq a b lt rt ls rs on off rep : Byte,
    decode (.packet [0x09#8, 0x00#8, seq, 0x09#8, a, b, lt, rt, ls, rs, on, off, rep]) =
      .ok (.pktRumble ⟨lt, rt, ls, rs, on, off, rep⟩)

/-- 30_encoding.md, section 6: a reader tells every packet the block emits from whatever follows it by the length byte; a
RUMBLE.BUILD packet has 13 bytes. Read as an image, the packet is a form whose build emits it again from the same state (the
model's choice, logs 8 and 9). -/
def Obligations.EmittedPacketsReadBack : Prop :=
  (∀ (i : Instr) (s t : State) (p rest : Bytes), i.wf = true → exec i s = .next t → t.response = some (.packet p) →
    readPacket (p ++ rest) = some (p, rest) ∧ ∃ j, decode (.packet p) = .ok j ∧ exec j s = exec i s) ∧
  ∀ (m : RumbleParams) (s : State), ∃ t p, exec (.rumbleBuild m) s = .next t ∧ t.response = some (.packet p) ∧
    p.length = 13 ∧ decode (.packet p) = .ok (.pktRumble m)

/-- 30_encoding.md, section 7: the syntax table and the pseudo-instructions, every row. What a mnemonic and operands make is
well-formed and is written so; each row's operands stand in the order of the table; a byte operand of 256 or more, or a
buffer in a byte's place, makes nothing, wherever it stands. -/
def Obligations.AssemblerKeepsOperandOrder : Prop :=
  (∀ (m : Mnemonic) (os : List AsmOperand) (i : Instr),
    assemble m os = some i ↔ i.wf = true ∧ assemblerForm i = some (m, os)) ∧
  assemble .seqNext [] = some .seqNext ∧ assemble .seqPeek [] = some .seqPeek ∧
  (∀ (cmd : Byte) (args : Bytes), args.length ≤ 255 →
    assemble .cmdBuild (.num cmd.toNat :: args.map fun b => .num b.toNat) = some (.cmdBuild cmd args)) ∧
  (∀ lt rt ls rs on off rep : Byte,
    assemble .rumbleBuild [.num lt.toNat, .num rt.toNat, .num ls.toNat, .num rs.toNat, .num on.toNat, .num off.toNat,
      .num rep.toNat] = some (.rumbleBuild ⟨lt, rt, ls, rs, on, off, rep⟩)) ∧
  (∀ lo hi : Byte, assemble .s16Dec [.num lo.toNat, .num hi.toNat] = some (.s16Dec lo hi)) ∧
  (∀ (buf : Bytes) (byteIdx bitIdx : Nat), buf.length ≤ Config.maxReportLen →
    assemble .bitGet [.buf buf, .num byteIdx, .num bitIdx] =
      if bitIdx < 8 then some (.bitGet buf byteIdx (BitVec.ofNat 3 bitIdx)) else none) ∧
  (∀ buf : Bytes, buf.length ≤ Config.maxReportLen → assemble .rptClass [.buf buf] = some (.rptClass buf) ∧
    assemble .rptDec [.buf buf] = some (.rptDec buf) ∧ assemble .sysDec [.buf buf] = some (.sysDec buf)) ∧
  (∀ lt rt ls rs : Byte, assemble .rumble [.num lt.toNat, .num rt.toNat, .num ls.toNat, .num rs.toNat] =
    some (.rumble lt rt ls rs)) ∧
  (∀ args : Bytes, args.length ≤ 255 →
    ∀ row ∈ [(Mnemonic.identify, Instr.identify args), (.power, .power args), (.auth, .auth args), (.led, .led args)],
      assemble row.1 (args.map fun b => .num b.toNat) = some row.2) ∧
  ∀ m ∈ [Mnemonic.cmdBuild, .rumbleBuild, .s16Dec, .rumble, .identify, .power, .auth, .led],
    ∀ os : List AsmOperand, (∃ o ∈ os, (∃ n, 256 ≤ n ∧ o = .num n) ∨ ∃ bs, o = .buf bs) → assemble m os = none

/-! ### The host of the block -/

/-- 43_host_session.md: every event of the session keeps the written packets' sequence bytes 0, 1, 2, ... without gaps, with
the counter at the next. The sequence bytes begin at 0 because the host resets the block on entry to Running, which is the
model's choice (log 15). -/
def Obligations.SessionKeepsSequenceUnbroken : Prop :=
  ∀ (e : Session.Event) (sys sys' : Session.System), sequenceUnbroken sys = true → Session.systemStep e sys = .next sys' →
    sequenceUnbroken sys' = true

/-- The session begins with nothing written, before Running. -/
def Obligations.SessionStartsUnbroken : Prop :=
  sequenceUnbroken Session.systemStart = true ∧ Session.systemStart.host.phase = .connecting

/-- 43_host_session.md, entry to Running: the Power-off and LED commands are written with sequence bytes 0 and 1,
whatever SEQ was: the host resets the block on entry, which is the model's choice (log 15). -/
def Obligations.EntryToRunningSendsPowerThenLed : Prop :=
  ∀ sys : Session.System, sys.host.phase = .configuring → ∃ sys' np nl,
    Session.systemStep .endpointsResolved sys = .next sys' ∧ sys'.host.phase = .running ∧
    sys'.host.written = sys.host.written ++
      [[0x05#8, 0x20#8, 0x00#8, np] ++ Config.powerOffArgs, [0x0a#8, 0x20#8, 0x01#8, nl] ++ Config.ledArgs] ∧
    np.toNat = Config.powerOffArgs.length ∧ nl.toNat = Config.ledArgs.length ∧ sys'.block.seq = 0x02#8

/-- 43_host_session.md, de-duplication: an INPUT report with an axis tuple makes the host write one rumble packet exactly
when the derived parameters differ from the last sent; when they are equal nothing is written and no sequence value used.
That nothing counts as sent before the first rumble command, so that the first tuple sends one, is the model's choice
(log 17). -/
def Obligations.RumbleIsSentOnlyOnChange : Prop :=
  ∀ (now : Nat) (buf : Bytes) (sys : Session.System) (f : InputReport) (ax : AxisTuple), sys.host.phase = .running →
    bufOk buf = true → decodeInput buf = .inputReport f → f.axes = some ax →
    ∃ sys', Session.systemStep (.poll now (some buf)) sys = .next sys' ∧
      sys'.host.lastRumble = some (Config.derive ax) ∧
      (sys.host.lastRumble = some (Config.derive ax) →
        sys'.host.written = sys.host.written ∧ sys'.block.seq = sys.block.seq) ∧
      (sys.host.lastRumble ≠ some (Config.derive ax) →
        sys'.host.written = sys.host.written ++ [rumblePacket sys.block.seq (Config.derive ax)] ∧
        sys'.block.seq.toNat = nextCount sys.block.seq)

/-- 43_host_session.md, the exit gesture: an INPUT report with SELECT or START keeps or starts the hold-timer, and held for
2.0 seconds it makes the session drain; with neither it cancels the timer and the session runs on. The clock in
milliseconds is the model's choice (log 19). -/
def Obligations.HoldingSelectOrStartDrains : Prop :=
  ∀ (now : Nat) (buf : Bytes) (sys : Session.System) (f : InputReport), sys.host.phase = .running → bufOk buf = true →
    decodeInput buf = .inputReport f → ∃ sys', Session.systemStep (.poll now (some buf)) sys = .next sys' ∧
      ((f.buttons.getLsbD 0 = true ∨ f.buttons.getLsbD 1 = true) →
        sys'.host.holdSince = some (sys.host.holdSince.getD now) ∧
        (sys'.host.phase = .draining ↔ sys.host.holdSince.getD now + 2000 ≤ now)) ∧
      (f.buttons.getLsbD 0 = false → f.buttons.getLsbD 1 = false →
        sys'.host.holdSince = none ∧ sys'.host.phase = .running)

/-- 43_host_session.md, the poll loop, and 42_input_decoder.md, RPT.CLASS: in Running a read without data, a timeout or an
empty read, does not call the block, writes, dumps and shows nothing; it only makes the session drain when the hold-timer has
run for 2.0 seconds. That the timer is looked at then too, and the clock in milliseconds, are the model's choices (log 19). -/
def Obligations.PollsWithoutDataLeaveTheBlock : Prop :=
  ∀ (now : Nat) (sys : Session.System), sys.host.phase = .running → ∀ data ∈ [none, some []],
    ∃ sys', Session.systemStep (.poll now data) sys = .next sys' ∧ sys'.block = sys.block ∧
      sys'.host = { sys.host with phase := sys'.host.phase } ∧
      (sys'.host.phase = .draining ↔ ∃ start, sys.host.holdSince = some start ∧ start + 2000 ≤ now) ∧
      (sys'.host.phase = .draining ∨ sys'.host.phase = .running)

/-- 43_host_session.md, Draining and the failures: the zero rumble command, whole, is written, SEQ advances by one, and the
session has exited; an unresolved endpoint and a failed write are fatal. That any next event does the first (log 19) and that
a failed write ends the session in every phase (log 20) are the model's choices; the timing bytes are the host's open
parameters (log 16). -/
def Obligations.DrainingStopsTheMotors : Prop :=
  (∀ (e : Session.Event) (sys : Session.System), sys.host.phase = .draining → e ≠ .writeFailed →
    ∃ sys', Session.systemStep e sys = .next sys' ∧ sys'.host.phase = .exited ∧
      sys'.host.written = sys.host.written ++
        [[0x09#8, 0x00#8, sys.block.seq, 0x09#8, 0x00#8, 0x0f#8, 0x00#8, 0x00#8, 0x00#8, 0x00#8, Config.zeroRumbleOn,
          Config.zeroRumbleOff, Config.zeroRumbleRep]] ∧
      sys'.block.seq.toNat = nextCount sys.block.seq) ∧
  (∀ sys : Session.System, sys.host.phase = .configuring →
    Session.systemStep .endpointUnresolved sys = .fault .endpointResolutionFailure) ∧
  ∀ sys : Session.System, Session.systemStep .writeFailed sys = .fault .transportWriteFailure
end

