-- ==== Sys2Proof/Laws/Encoding.lean ====
section
/-! SUPPORT. The encoder's parts produce what can be presented, and the checks in the terms the decoder uses. -/

namespace Sys2Proof

theorem argsOk_iff (args : Bytes) : argsOk args = true ↔ args.length ≤ 255 := decide_eq_true_iff

theorem bufOk_iff (buf : Bytes) : bufOk buf = true ↔ buf.length ≤ Config.maxReportLen := decide_eq_true_iff

theorem maxReportLen_ge : 41 ≤ Config.maxReportLen := by
  simp [Config.maxReportLen]

/-- A buffer of at most 41 bytes is legal whatever MAX_REPORT_LEN is. -/
theorem bufOk_of_le {buf : Bytes} (h : buf.length ≤ 41) : bufOk buf = true :=
  (bufOk_iff buf).2 (h.trans maxReportLen_ge)

/-- A legal argument count fits its byte. -/
theorem toNat_argc {args : Bytes} (h : argsOk args = true) : (BitVec.ofNat 8 args.length).toNat = args.length := by
  have := (argsOk_iff args).1 h
  simp
  omega

theorem opRequest_presentable (op : BitVec 4) : codePresentable (opRequest op) = true := by
  simp [opRequest, codePresentable, requestPresentable, blankRequest, bufOk]

theorem cmdRequest_presentable {args : Bytes} (h : argsOk args = true) (cmd : Byte) :
    codePresentable (cmdRequest cmd args) = true := by
  simpa [cmdRequest, codePresentable, requestPresentable, blankRequest, bufOk] using (toNat_argc h).symm

theorem rumbleRequest_presentable (p : RumbleParams) : codePresentable (rumbleRequest p) = true := by
  simp [rumbleRequest, codePresentable, requestPresentable, blankRequest, bufOk]

theorem bufRequest_presentable {buf : Bytes} (h : bufOk buf = true) (op : BitVec 4) :
    codePresentable (bufRequest op buf) = true := by
  simpa [bufRequest, codePresentable, requestPresentable, blankRequest] using h

/-! ### Packet images -/

@[simp] theorem packetTotal_cons (id flags seq n : Byte) (payload : Bytes) :
    packetTotal (id :: flags :: seq :: n :: payload) = some (4 + n.toNat) := rfl

/-- A header and its payload are a whole packet exactly when the length byte counts the payload. -/
@[simp] theorem packetWhole_cons (id flags seq n : Byte) (payload : Bytes) :
    packetWhole (id :: flags :: seq :: n :: payload) = true ↔ n.toNat = payload.length := by
  simp [packetWhole]
  omega

/-- A whole packet has a header. -/
theorem packetWhole_shape {image : Bytes} (h : packetWhole image = true) :
    ∃ id flags seq n payload, image = id :: flags :: seq :: n :: payload ∧ n.toNat = payload.length := by
  match image with
  | [] | [_] | [_, _] | [_, _, _] => simp [packetWhole, packetTotal] at h
  | id :: flags :: seq :: n :: payload => exact ⟨id, flags, seq, n, payload, rfl, (packetWhole_cons ..).1 h⟩

/-- A whole packet is what a reader takes off the front of any stream that begins with it. -/
theorem readPacket_append {p : Bytes} (h : packetWhole p = true) (rest : Bytes) : readPacket (p ++ rest) = some (p, rest) := by
  obtain ⟨id, flags, seq, n, payload, rfl, hn⟩ := packetWhole_shape h
  have ht : (payload ++ rest).take n.toNat = payload ∧ (payload ++ rest).drop n.toNat = rest := by simp [hn]
  simp [readPacket, show 4 + n.toNat = n.toNat + 4 by omega, ht]
  omega

theorem isPacketForm_generic {id n : Byte} {payload : Bytes} (hid : id ∈ commandIds) (hn : n.toNat = payload.length) (seq : Byte) :
    isPacketForm (id :: 0x20#8 :: seq :: n :: payload) = true := by
  simp [isPacketForm, hid, hn]

theorem genericImage_presentable {args : Bytes} (h : argsOk args = true) {id : Byte} (hid : id ∈ commandIds) :
    codePresentable (genericImage id args) = true :=
  isPacketForm_generic hid (toNat_argc h) _

theorem rumbleImage_presentable (p : RumbleParams) : codePresentable (rumbleImage p) = true := rfl

/-- The form of a packet image whose length byte is right: its command id and flags decide. -/
theorem decodePacket_whole {n : Byte} {payload : Bytes} (hn : n.toNat = payload.length) (id flags seq : Byte) :
    decodePacket (id :: flags :: seq :: n :: payload) =
      if flags = 0x20#8 then genericPacketInstr id payload
      else if flags = 0x00#8 ∧ id = 0x09#8 then rumblePacketInstr payload
      else .rejected .packetForm := by
  simp [decodePacket, packetInstr, hn]

theorem genericPacketInstr_ok {id : Byte} {payload : Bytes} :
    (∃ i, genericPacketInstr id payload = .ok i) ↔ id ∈ commandIds := by
  unfold genericPacketInstr commandIds
  split_ifs <;> simp_all

theorem rumblePacketInstr_ok {payload : Bytes} : (∃ i, rumblePacketInstr payload = .ok i) ↔ payload.length = 9 := by
  unfold rumblePacketInstr
  split
  · simp
  · rename_i h
    simp only [reduceCtorEq, exists_false, false_iff]
    intro hl
    match payload, hl with
    | [a, b, lt, rt, ls, rs, on, off, rep], _ => exact h _ _ _ _ _ _ _ _ _ rfl

/-- A packet image decodes exactly when it is one of a form. -/
theorem decodePacket_ok_iff (image : Bytes) : (∃ i, decodePacket image = .ok i) ↔ isPacketForm image = true := by
  by_cases hw : packetWhole image = true
  · obtain ⟨id, flags, seq, n, payload, rfl, hn⟩ := packetWhole_shape hw
    rw [decodePacket_whole hn]
    split_ifs with h1 h2
    · simp [genericPacketInstr_ok, isPacketForm, hn, h1]
    · simp [rumblePacketInstr_ok, isPacketForm, hn, h2]
    · simp [isPacketForm, h1]
      exact fun _ a b => absurd ⟨a, b⟩ h2
  · simp [decodePacket, isPacketForm, hw]

/-- What can be presented as a request is never rejected. -/
theorem decodeRequest_presentable {r : Request} (h : requestPresentable r = true) :
    decodeRequest r = .ok (opInstr r) := by
  simp [requestPresentable] at h
  simp [decodeRequest, h]

end Sys2Proof
end

