-- ==== Sys2Proof/Laws/State.lean ====
section
/-! SUPPORT. One lemma per field per update of State, so that no proof unfolds a record update. -/

namespace Sys2Proof.Machine

@[simp] theorem advanceSeq_seq (s : State) : (advanceSeq s).seq = s.seq + 1 := rfl
@[simp] theorem advanceSeq_inputs (s : State) : (advanceSeq s).inputs = s.inputs := rfl
@[simp] theorem advanceSeq_response (s : State) : (advanceSeq s).response = s.response := rfl

@[simp] theorem resetBlock_seq (s : State) : (resetBlock s).seq = 0x00#8 := rfl
@[simp] theorem resetBlock_inputs (s : State) : (resetBlock s).inputs = s.inputs := rfl
@[simp] theorem resetBlock_response (s : State) : (resetBlock s).response = none := rfl

@[simp] theorem presentNext_seq (x : Input) (s : State) : (presentNext x s).seq = s.seq := rfl
@[simp] theorem presentNext_inputs (x : Input) (s : State) : (presentNext x s).inputs = x :: s.inputs := rfl
@[simp] theorem presentNext_response (x : Input) (s : State) : (presentNext x s).response = s.response := rfl

@[simp] theorem reset_seq : State.reset.seq = 0x00#8 := rfl
@[simp] theorem reset_inputs : State.reset.inputs = [] := rfl
@[simp] theorem reset_response : State.reset.response = none := rfl

/-- Two states that agree in their three fields are equal. -/
theorem state_ext {s t : State} (hs : s.seq = t.seq) (hi : s.inputs = t.inputs) (hr : s.response = t.response) : s = t := by
  cases s
  cases t
  simp_all

end Sys2Proof.Machine
end

