-- ==== Sys2Proof/Laws/Ops.lean ====
section
/-! SUPPORT. One lemma per shared operation that says all it can do; callers cite it and do not unfold the operation. -/

namespace Sys2Proof.Machine

theorem answer_eq (r : Response) (s : State) : answer r s = .next { s with response := some r } := rfl

theorem emit_eq (p : Bytes) (s : State) : emit p s = .next { s with response := some (.packet p) } := rfl

theorem raiseStatus_eq (r : Response) (s : State) : raiseStatus r s = .next { s with response := some r } := rfl

theorem raiseIllegalOp_eq (s : State) : raiseIllegalOp s = .next { s with response := some .illegalOp } := rfl

theorem frameCommand_eq (cmd : Byte) (args : Bytes) (s : State) :
    frameCommand cmd args s = .next { seq := s.seq + 1, inputs := s.inputs,
                                      response := some (.packet (genericPacket cmd s.seq args)) } := rfl

theorem buildRumble_eq (p : RumbleParams) (s : State) :
    buildRumble p s = .next { seq := s.seq + 1, inputs := s.inputs,
                              response := some (.packet (rumblePacket s.seq p)) } := rfl

theorem buildCommand_known {cmd : Byte} (h : isCommand cmd = true) (args : Bytes) (s : State) :
    buildCommand cmd args s = .next { seq := s.seq + 1, inputs := s.inputs,
                                      response := some (.packet (genericPacket cmd s.seq args)) } := by
  simp [buildCommand, h, frameCommand_eq]

theorem buildCommand_unknown {cmd : Byte} (h : isCommand cmd = false) (args : Bytes) (s : State) :
    buildCommand cmd args s = .next { s with response := some .illegalCmd } := by
  simp [buildCommand, h, raiseStatus_eq]

/-! ### The command enumeration and the packets -/

theorem isCommand_iff (cmd : Byte) :
    isCommand cmd = true ↔ cmd = 0x04#8 ∨ cmd = 0x05#8 ∨ cmd = 0x06#8 ∨ cmd = 0x09#8 ∨ cmd = 0x0a#8 := by
  simp [isCommand, commandIds]

@[simp] theorem genericPacket_length (cmd seq : Byte) (args : Bytes) :
    (genericPacket cmd seq args).length = 4 + args.length := by
  simp [genericPacket]
  omega

@[simp] theorem rumblePacket_length (seq : Byte) (p : RumbleParams) : (rumblePacket seq p).length = 13 := rfl

/-! ### Reads of a report -/

theorem rptRead_isSome_iff (buf : Bytes) (i : Nat) : (rptRead buf i).isSome = true ↔ i < buf.length := by
  simp [rptRead]

theorem rptRead16_eq (buf : Bytes) (i : Nat) :
    rptRead16 buf i = if h : i + 1 < buf.length then some (buf[i], buf[i + 1]) else none := by
  by_cases h : i + 1 < buf.length
  · simp [rptRead16, rptRead, h, Nat.lt_of_succ_lt h]
  · have : buf[i + 1]? = none := List.getElem?_eq_none (Nat.le_of_not_lt h)
    simp [rptRead16, rptRead, h]

theorem readAxis_isSome_iff (buf : Bytes) (a : Axis) :
    (readAxis buf a).isSome = true ↔ axisOffset a + 1 < buf.length := by
  by_cases h : axisOffset a + 1 < buf.length <;> simp [readAxis, rptRead16_eq, h]

theorem rptBit_beyond {buf : Bytes} {i : Nat} (h : buf.length ≤ i) (k : Nat) : rptBit buf i k = false := by
  simp [rptBit, rptRead, List.getElem?_eq_none h]

/-- A button stands in the display order at its display index. -/
theorem buttonOrder_index (k : Button) : buttonOrder[buttonIndex k]? = some k := by
  cases k <;> rfl

theorem buttonIndex_lt (k : Button) : buttonIndex k < 15 := by
  cases k <;> decide

/-- The bit of the `buttons` field at a button's display index is that button's state. -/
theorem buttonField_getLsbD (buf : Bytes) (k : Button) :
    (buttonField buf).getLsbD (buttonIndex k) = buttonActive buf k := by
  simp [buttonField, BitVec.getLsbD_ofBoolListLE, buttonIndex_lt, buttonOrder_index]

/-! ### One step -/

@[simp] theorem takeInput_presentNext (x : Input) (s : State) : takeInput (presentNext x s) = some (x, s) := rfl

theorem step_idle {s : State} (h : s.inputs = []) : step s = .next s := by
  simp [step, takeInput, h]

theorem step_reset {s : State} {rest : List Input} (h : s.inputs = .reset :: rest) :
    step s = .next (resetBlock { s with inputs := rest }) := by
  simp [step, takeInput, h]

theorem step_present {s : State} {c : Code} {rest : List Input} (h : s.inputs = .present c :: rest) :
    step s = match decode c with
      | .ok i => exec i { s with inputs := rest }
      | .rejected e => .refused (.cannotBePresented e) := by
  cases s
  cases h
  rfl

end Sys2Proof.Machine
end

