-- ==== Sys2Proof/Laws/Exec.lean ====
section
/-! SUPPORT. All that an instruction and a step can do, said once: `exec_eq` gives exec of every instruction as one equation,
`step_cases` inverts a step. -/

namespace Sys2Proof.Machine

open Sys2Proof.Safety

/-- The response of an instruction, as a function of the instruction and of SEQ before it alone. -/
def responseOf (i : Instr) (q : Byte) : Response :=
  match i with
  | .seqNext => .seqOut q
  | .seqPeek => .seqOut q
  | .cmdBuild cmd args => if isCommand cmd then .packet (genericPacket cmd q args) else .illegalCmd
  | .rumbleBuild p => .packet (rumblePacket q p)
  | .s16Dec lo hi => .s16 (s16 lo hi)
  | .bitGet buf i k => .bit (rptBit buf i k.toNat)
  | .rptClass buf => .cls (classify buf)
  | .rptDec buf => decodeInput buf
  | .sysDec buf => decodeSystem buf
  | .reserved9 => .illegalOp
  | .reservedA => .illegalOp
  | .reservedB => .illegalOp
  | .reservedC => .illegalOp
  | .reservedD => .illegalOp
  | .reservedE => .illegalOp
  | .reservedF => .illegalOp
  | .rumble lt rt ls rs => .packet (rumblePacket q (defaultTiming lt rt ls rs))
  | .identify args => .packet (genericPacket 0x04#8 q args)
  | .power args => .packet (genericPacket 0x05#8 q args)
  | .auth args => .packet (genericPacket 0x06#8 q args)
  | .led args => .packet (genericPacket 0x0a#8 q args)
  | .pktIdentify args => .packet (genericPacket 0x04#8 q args)
  | .pktPower args => .packet (genericPacket 0x05#8 q args)
  | .pktAuthenticate args => .packet (genericPacket 0x06#8 q args)
  | .pktRumbleGeneric args => .packet (genericPacket 0x09#8 q args)
  | .pktLed args => .packet (genericPacket 0x0a#8 q args)
  | .pktRumble p => .packet (rumblePacket q p)
  | .rptInput rest => decodeInput (0x20#8 :: rest)
  | .rptSystem rest => decodeSystem (0x07#8 :: rest)
  | .rptIgnored rest => .cls (classify (0x03#8 :: rest))
  | .rptOther buf => .cls (classify buf)

/-- SEQ after an instruction. -/
def seqAfter (i : Instr) (q : Byte) : Byte := if issues i then q + 1 else q

theorem buildCommand_eq (cmd : Byte) (args : Bytes) (s : State) :
    buildCommand cmd args s =
      .next { seq := seqAfter (.cmdBuild cmd args) s.seq, inputs := s.inputs,
              response := some (responseOf (.cmdBuild cmd args) s.seq) } := by
  by_cases h : isCommand cmd = true
  · simp [buildCommand_known h, seqAfter, issues, responseOf, h]
  · simp [buildCommand_unknown (by simpa using h), seqAfter, issues, responseOf, h]

/-- Every instruction ends in a next state: SEQ as `seqAfter` says, the response as `responseOf` says, the port untouched. -/
theorem exec_eq (i : Instr) (s : State) :
    exec i s = .next { seq := seqAfter i s.seq, inputs := s.inputs, response := some (responseOf i s.seq) } := by
  cases i
  case cmdBuild cmd args => exact buildCommand_eq cmd args s
  case identify args => exact buildCommand_eq 0x04#8 args s
  case power args => exact buildCommand_eq 0x05#8 args s
  case auth args => exact buildCommand_eq 0x06#8 args s
  case led args => exact buildCommand_eq 0x0a#8 args s
  all_goals rfl

theorem eq_of_exec {i : Instr} {s t : State} (h : exec i s = .next t) :
    t = { seq := seqAfter i s.seq, inputs := s.inputs, response := some (responseOf i s.seq) } := by
  rw [exec_eq] at h
  exact (Host.Outcome.next.inj h).symm

/-- An issuing instruction shows SEQ in its response. -/
theorem shownValue_responseOf {i : Instr} (h : issues i = true) (q : Byte) :
    shownValue (some (responseOf i q)) = some q := by
  cases i <;> simp_all [issues, responseOf, shownValue, genericPacket, rumblePacket]

/-- The three things a step that answers a next state can have done. -/
theorem step_cases {s t : State} (h : step s = .next t) :
    (s.inputs = [] ∧ t = s) ∨
    (∃ rest, s.inputs = .reset :: rest ∧ t = { seq := 0x00#8, inputs := rest, response := none }) ∨
    ∃ c rest i, s.inputs = .present c :: rest ∧ decode c = .ok i ∧ exec i { s with inputs := rest } = .next t := by
  cases hi : s.inputs with
  | nil =>
    rw [step_idle hi] at h
    exact .inl ⟨rfl, (Host.Outcome.next.inj h).symm⟩
  | cons x rest =>
    cases x with
    | reset =>
      rw [step_reset hi] at h
      exact .inr (.inl ⟨rest, rfl, (Host.Outcome.next.inj h).symm⟩)
    | present c =>
      rw [step_present hi] at h
      cases hd : decode c with
      | ok i =>
        rw [hd] at h
        exact .inr (.inr ⟨c, rest, i, rfl, hd, h⟩)
      | rejected e =>
        rw [hd] at h
        cases h

end Sys2Proof.Machine
end

