-- ==== Sys2Proof/Laws/PerInstr.lean ====
section
/-! SUPPORT. One lemma per constructor of Instr: the encoding of what is well-formed can be presented (30_encoding.md R73). -/

namespace Sys2Proof.Laws.EncodesPresentable

/-- The encoding of a well-formed instruction can be presented in its code space. -/
def Statement (i : Instr) : Prop := i.wf = true → codePresentable (encode i) = true

theorem seqNext : Statement .seqNext := fun _ => opRequest_presentable _

theorem seqPeek : Statement .seqPeek := fun _ => opRequest_presentable _

theorem cmdBuild (cmd : Byte) (args : Bytes) : Statement (.cmdBuild cmd args) := fun h => cmdRequest_presentable h _

theorem rumbleBuild (p : RumbleParams) : Statement (.rumbleBuild p) := fun _ => rumbleRequest_presentable _

theorem s16Dec (lo : Byte) (hi : Byte) : Statement (.s16Dec lo hi) := fun _ => by
  simp [encode, codePresentable, requestPresentable, blankRequest, bufOk]

theorem bitGet (buf : Bytes) (byteIdx : Nat) (bitIdx : BitVec 3) : Statement (.bitGet buf byteIdx bitIdx) := fun h => by
  simpa [encode, codePresentable, requestPresentable, blankRequest, Instr.wf] using h

theorem rptClass (buf : Bytes) : Statement (.rptClass buf) := fun h => bufRequest_presentable h _

theorem rptDec (buf : Bytes) : Statement (.rptDec buf) := fun h => bufRequest_presentable h _

theorem sysDec (buf : Bytes) : Statement (.sysDec buf) := fun h => bufRequest_presentable h _

theorem reserved9 : Statement .reserved9 := fun _ => opRequest_presentable _

theorem reservedA : Statement .reservedA := fun _ => opRequest_presentable _

theorem reservedB : Statement .reservedB := fun _ => opRequest_presentable _

theorem reservedC : Statement .reservedC := fun _ => opRequest_presentable _

theorem reservedD : Statement .reservedD := fun _ => opRequest_presentable _

theorem reservedE : Statement .reservedE := fun _ => opRequest_presentable _

theorem reservedF : Statement .reservedF := fun _ => opRequest_presentable _

theorem rumble (lt : Byte) (rt : Byte) (ls : Byte) (rs : Byte) : Statement (.rumble lt rt ls rs) := fun _ => rumbleRequest_presentable _

theorem identify (args : Bytes) : Statement (.identify args) := fun h => cmdRequest_presentable h _

theorem power (args : Bytes) : Statement (.power args) := fun h => cmdRequest_presentable h _

theorem auth (args : Bytes) : Statement (.auth args) := fun h => cmdRequest_presentable h _

theorem led (args : Bytes) : Statement (.led args) := fun h => cmdRequest_presentable h _

theorem pktIdentify (args : Bytes) : Statement (.pktIdentify args) := fun h => genericImage_presentable h (by decide)

theorem pktPower (args : Bytes) : Statement (.pktPower args) := fun h => genericImage_presentable h (by decide)

theorem pktAuthenticate (args : Bytes) : Statement (.pktAuthenticate args) := fun h => genericImage_presentable h (by decide)

theorem pktRumbleGeneric (args : Bytes) : Statement (.pktRumbleGeneric args) := fun h => genericImage_presentable h (by decide)

theorem pktLed (args : Bytes) : Statement (.pktLed args) := fun h => genericImage_presentable h (by decide)

theorem pktRumble (p : RumbleParams) : Statement (.pktRumble p) := fun _ => rumbleImage_presentable _

theorem rptInput (rest : Bytes) : Statement (.rptInput rest) := fun h => h

theorem rptSystem (rest : Bytes) : Statement (.rptSystem rest) := fun h => h

theorem rptIgnored (rest : Bytes) : Statement (.rptIgnored rest) := fun h => h

theorem rptOther (buf : Bytes) : Statement (.rptOther buf) := fun h => by
  simp [Instr.wf] at h
  exact h.1

end Sys2Proof.Laws.EncodesPresentable
end

