-- ==== Sys2Proof/Tests/Slice0.lean ====
section
/-! SUPPORT. Tests: what is not well-formed is refused; the words of spec/ decode to what they stand for; the vectors of
95_test_vectors.md, one step each; and a witness for the hypotheses of every statement. Every expected value is spec/'s. -/

namespace Sys2Proof.Tests

open Sys2Proof.Machine Sys2Proof.Safety Sys2Proof.Session

/-- A state with SEQ at a value and both ports empty. -/
def at_ (q : Byte) : State := { seq := q, inputs := [], response := none }

/-- SEQ and the response after an instruction, if it answers a next state. -/
def ran (i : Instr) (q : Byte) : Option (Byte × Option Response) :=
  match exec i (at_ q) with
  | .next t => some (t.seq, t.response)
  | .fault _ => none
  | .refused _ => none

/-- The state a step answers, if any. -/
def stepped (s : State) : Option State :=
  match step s with
  | .next t => some t
  | .fault _ => none
  | .refused _ => none

/-- The system an event leads to, if any. -/
def happened (e : Event) (sys : System) : Option System :=
  match systemStep e sys with
  | .next t => some t
  | .fault _ => none
  | .refused _ => none

/-- Why a step is refused, if it is. -/
def stopped (s : State) : Option Refusal :=
  match step s with
  | .refused r => some r
  | .next _ => none
  | .fault _ => none

/-! ### WellFormed (R73, R195) -/

theorem test_wf_args : (Instr.cmdBuild 0x05#8 (List.replicate 256 0x00#8)).wf = false ∧
    (Instr.cmdBuild 0x05#8 (List.replicate 255 0x00#8)).wf = true := by simp [Instr.wf, argsOk, Config.maxArgs, -List.reduceReplicate]
theorem test_wf_pseudo_args : [Instr.identify, .power, .auth, .led].map (fun f => (f (List.replicate 256 0x00#8)).wf) =
    [false, false, false, false] := by simp [Instr.wf, argsOk, Config.maxArgs, -List.reduceReplicate]
theorem test_wf_form_args :
    [Instr.pktIdentify, .pktPower, .pktAuthenticate, .pktRumbleGeneric, .pktLed].map (fun f => (f (List.replicate 256 0x00#8)).wf) =
      [false, false, false, false, false] := by simp [Instr.wf, argsOk, Config.maxArgs, -List.reduceReplicate]
theorem test_wf_other_of_known_type : (Instr.rptOther [0x20#8]).wf = false := by decide
theorem test_wf_other_empty : (Instr.rptOther []).wf = true := by decide
theorem test_wf_buffer_41 : (Instr.rptDec (List.replicate 41 0x00#8)).wf = true := by simp [Instr.wf, bufOk, Config.maxReportLen]
theorem test_wf_buffer_too_long :
    (Instr.bitGet (List.replicate (Config.maxReportLen + 1) 0x00#8) 0 0).wf = false ∧
    (Instr.rptClass (List.replicate (Config.maxReportLen + 1) 0x00#8)).wf = false ∧
    (Instr.rptInput (List.replicate Config.maxReportLen 0x00#8)).wf = false := by
  simp [Instr.wf, bufOk]
theorem test_request_argc_mismatch :
    decode (.request { blankRequest with op := 0x2, cmd := 0x05#8, argc := 0x02#8, args := [0x04#8] }) =
      .rejected .argsLength := by decide
theorem test_request_buf_len_mismatch :
    decode (.request { blankRequest with op := 0x7, bufLen := 2, buf := [0x20#8] }) = .rejected .bufLength := by decide

/-! ### Decoding: words written out from R71, R76, R84, R86 -/

/-- The sixteen operation codes, all other fields zero or empty (R71, R92). -/
theorem test_decode_ops :
    (List.range 16).map (fun n => decode (.request { blankRequest with op := BitVec.ofNat 4 n })) =
      [.ok .seqNext, .ok .seqPeek, .ok (.cmdBuild 0x00#8 []), .ok (.rumbleBuild ⟨0, 0, 0, 0, 0, 0, 0⟩),
       .ok (.s16Dec 0x00#8 0x00#8), .ok (.bitGet [] 0 0), .ok (.rptClass []), .ok (.rptDec []), .ok (.sysDec []),
       .ok .reserved9, .ok .reservedA, .ok .reservedB, .ok .reservedC, .ok .reservedD, .ok .reservedE, .ok .reservedF] := by
  decide

/-- Program P1, request 2 (95_test_vectors.md): `op=0x2 cmd=0x0a argc=3 args={00 01 14}`. -/
theorem test_decode_cmd :
    decode (.request { blankRequest with op := 0b0010, cmd := 0x0a#8, argc := 0x03#8, args := [0x00#8, 0x01#8, 0x14#8] }) =
      .ok (.cmdBuild 0x0a#8 [0x00#8, 0x01#8, 0x14#8]) := by decide

/-- Program P1, request 4: `op=0x3 lt=0x10 rt=0x20 ls=0x30 rs=0x40 on=0xff off=0x00 rep=0xff`. -/
theorem test_decode_rumble :
    decode (.request { blankRequest with op := 0b0011, motors :=
      { lt := 0x10#8, rt := 0x20#8, ls := 0x30#8, rs := 0x40#8, on := 0xff#8, off := 0x00#8, rep := 0xff#8 } }) =
      .ok (.rumbleBuild ⟨0x10#8, 0x20#8, 0x30#8, 0x40#8, 0xff#8, 0x00#8, 0xff#8⟩) := by decide

/-- V-BIT-3 as a request. -/
theorem test_decode_bit :
    decode (.request { blankRequest with
      op := 0b0101, bufLen := 5, buf := [0x20#8, 0, 0, 0, 0x0c#8], byteIdx := 4, bitIdx := 2 }) = .ok (.bitGet [0x20#8, 0, 0, 0, 0x0c#8] 4 2) := by decide

/-- The six packet forms (the table's PKT rows), with packets of 95_test_vectors.md section 2.2 and 2.3. -/
theorem test_decode_packets :
    decode (.packet [0x04#8, 0x20#8, 0x03#8, 0x00#8]) = .ok (.pktIdentify []) ∧
    decode (.packet [0x05#8, 0x20#8, 0x00#8, 0x01#8, 0x04#8]) = .ok (.pktPower [0x04#8]) ∧
    decode (.packet [0x06#8, 0x20#8, 0xfe#8, 0x03#8, 0xaa#8, 0xbb#8, 0xcc#8]) =
      .ok (.pktAuthenticate [0xaa#8, 0xbb#8, 0xcc#8]) ∧
    decode (.packet [0x09#8, 0x20#8, 0xff#8, 0x02#8, 0x01#8, 0x02#8]) = .ok (.pktRumbleGeneric [0x01#8, 0x02#8]) ∧
    decode (.packet [0x0a#8, 0x20#8, 0x01#8, 0x03#8, 0x00#8, 0x01#8, 0x14#8]) = .ok (.pktLed [0x00#8, 0x01#8, 0x14#8]) ∧
    decode (.packet [0x09#8, 0x00#8, 0x09#8, 0x09#8, 0x00#8, 0x0f#8, 1, 2, 3, 4, 5, 6, 7]) =
      .ok (.pktRumble ⟨1, 2, 3, 4, 5, 6, 7⟩) := by decide

/-- Images of no form are rejected: 0x07 is no command (R82), flags 0x00 but no rumble (R81), a short header, a length byte
that is not the payload's (R80, R95), a rumble image of another length than 13 (R95). -/
theorem test_decode_packet_rejected :
    decode (.packet [0x07#8, 0x20#8, 0x00#8, 0x00#8]) = .rejected .packetForm ∧
    decode (.packet [0x04#8, 0x00#8, 0x00#8, 0x00#8]) = .rejected .packetForm ∧
    decode (.packet [0x04#8, 0x20#8, 0x00#8]) = .rejected .packetLength ∧
    decode (.packet [0x05#8, 0x20#8, 0x00#8, 0x03#8, 0xaa#8]) = .rejected .packetLength ∧
    decode (.packet [0x09#8, 0x00#8, 0x00#8, 0x00#8]) = .rejected .packetLength := by decide

/-- A reader takes the first packet of a stream by its length byte (R95); an unfinished packet is none yet. -/
theorem test_read_packet :
    readPacket [0x05#8, 0x20#8, 0x00#8, 0x01#8, 0x04#8, 0x04#8, 0x20#8] =
      some ([0x05#8, 0x20#8, 0x00#8, 0x01#8, 0x04#8], [0x04#8, 0x20#8]) ∧
    readPacket [0x05#8, 0x20#8, 0x00#8, 0x03#8, 0xaa#8] = none := by decide

/-- The four report classes (V-CLS-1, 3, 5, 6, 10). -/
theorem test_decode_reports :
    decode (.report [0x20#8]) = .ok (.rptInput []) ∧
    decode (.report [0x07#8, 0x20#8, 0x00#8, 0x01#8, 0x01#8]) = .ok (.rptSystem [0x20#8, 0x00#8, 0x01#8, 0x01#8]) ∧
    decode (.report [0x03#8, 0x20#8]) = .ok (.rptIgnored [0x20#8]) ∧
    decode (.report [0x02#8, 0x20#8, 0x00#8]) = .ok (.rptOther [0x02#8, 0x20#8, 0x00#8]) ∧
    decode (.report []) = .ok (.rptOther []) := by decide

/-- The pseudo-instructions' words are the core's (R97). -/
theorem test_decode_pseudo :
    decode (encode (.rumble 0x10#8 0x20#8 0x30#8 0x40#8)) =
      .ok (.rumbleBuild ⟨0x10#8, 0x20#8, 0x30#8, 0x40#8, 0xff#8, 0x00#8, 0xff#8⟩) ∧
    [Instr.identify [], .power [], .auth [], .led []].map (fun i => decode (encode i)) =
      [.ok (.cmdBuild 0x04#8 []), .ok (.cmdBuild 0x05#8 []), .ok (.cmdBuild 0x06#8 []), .ok (.cmdBuild 0x0a#8 [])] := by
  decide

/-- Table words: a request by its op, a packet form, a report type. -/
theorem test_table_words :
    decodeTableWord 8 0x1 = some .seqPeek ∧ decodeTableWord 8 0xF = some .reservedF ∧
    decodeTableWord 16 0x0420 = some (.pktIdentify []) ∧
    decodeTableWord 16 0x0900 = some (.pktRumble ⟨0, 0, 0, 0, 0, 0, 0⟩) ∧
    decodeTableWord 8 0x20 = some (.rptInput []) := by decide

/-- A table word runs as the first instruction after reset. -/
theorem test_with_fetch_word :
    stepped (State.reset.withFetchWord 8 0x0) = some { seq := 0x01#8, inputs := [], response := some (.seqOut 0x00#8) } := by
  decide

/-! ### The sequence counter (95_test_vectors.md section 2.1) -/

theorem test_seq_next_wraps : ran .seqNext 0xff#8 = some (0x00#8, some (.seqOut 0xff#8)) := by decide
theorem test_seq_next_7f : ran .seqNext 0x7f#8 = some (0x80#8, some (.seqOut 0x7f#8)) := by decide
theorem test_seq_peek_keeps : ran .seqPeek 0xff#8 = some (0xff#8, some (.seqOut 0xff#8)) := by decide

/-! ### The encoder (sections 2.2 and 2.3) -/

/-- V-CMD-4. -/
theorem test_cmd_auth : ran (.cmdBuild 0x06#8 [0xaa#8, 0xbb#8, 0xcc#8]) 0xfe#8 =
    some (0xff#8, some (.packet [0x06#8, 0x20#8, 0xfe#8, 0x03#8, 0xaa#8, 0xbb#8, 0xcc#8])) := by decide
/-- V-CMD-8 and the neighbours of V-CMD-11. -/
theorem test_cmd_refused : [0x07#8, 0x03#8, 0x08#8, 0x0b#8, 0x20#8, 0xff#8].map (fun c => ran (.cmdBuild c [0x01#8]) 0x03#8) =
    List.replicate 6 (some (0x03#8, some .illegalCmd)) := by decide
/-- V-RMB-7. -/
theorem test_rumble_order : ran (.rumbleBuild ⟨1, 2, 3, 4, 5, 6, 7⟩) 0x09#8 =
    some (0x0a#8, some (.packet [0x09#8, 0x00#8, 0x09#8, 0x09#8, 0x00#8, 0x0f#8, 1, 2, 3, 4, 5, 6, 7])) := by decide
/-- V-RMB-3. -/
theorem test_rumble_wraps : ran (.rumbleBuild ⟨0, 0, 0, 0, 0xff#8, 0, 0xff#8⟩) 0xff#8 =
    some (0x00#8, some (.packet [0x09#8, 0x00#8, 0xff#8, 0x09#8, 0x00#8, 0x0f#8, 0, 0, 0, 0, 0xff#8, 0, 0xff#8])) := by decide
/-- V-RMB-2. -/
theorem test_rumble_pseudo : ran (.rumble 0x10#8 0x20#8 0x30#8 0x40#8) 0x02#8 = some (0x03#8,
    some (.packet [0x09#8, 0x00#8, 0x02#8, 0x09#8, 0x00#8, 0x0f#8, 0x10#8, 0x20#8, 0x30#8, 0x40#8, 0xff#8, 0x00#8, 0xff#8])) := by
  decide
/-- Program P2, request 255, and the other names of R97 with its bare headers. -/
theorem test_pseudo_commands :
    ran (.auth [0xaa#8, 0xbb#8, 0xcc#8]) 0xfe#8 =
      some (0xff#8, some (.packet [0x06#8, 0x20#8, 0xfe#8, 0x03#8, 0xaa#8, 0xbb#8, 0xcc#8])) ∧
    [Instr.identify [], .power [], .led []].map (fun i => ran i 0x00#8) =
      [0x04#8, 0x05#8, 0x0a#8].map fun c => some (0x01#8, some (.packet [c, 0x20#8, 0x00#8, 0x00#8])) := by decide
/-- The packet forms are those of V-CMD-3, 6, 5 and V-RMB-4. -/
theorem test_packet_forms :
    ran (.pktIdentify []) 0x03#8 = some (0x04#8, some (.packet [0x04#8, 0x20#8, 0x03#8, 0x00#8])) ∧
    ran (.pktPower []) 0x00#8 = some (0x01#8, some (.packet [0x05#8, 0x20#8, 0x00#8, 0x00#8])) ∧
    ran (.pktRumbleGeneric [0x01#8, 0x02#8]) 0xff#8 =
      some (0x00#8, some (.packet [0x09#8, 0x20#8, 0xff#8, 0x02#8, 0x01#8, 0x02#8])) ∧
    ran (.pktRumble ⟨0, 0, 0, 0, 0, 0, 0⟩) 0x00#8 =
      some (0x01#8, some (.packet [0x09#8, 0x00#8, 0x00#8, 0x09#8, 0x00#8, 0x0f#8, 0, 0, 0, 0, 0, 0, 0])) := by decide

/-! ### The decoder (sections 2.4 to 2.8) -/

/-- The signed value of S16.DEC's answer. -/
def s16Value (lo hi : Byte) : Option Int :=
  match ran (.s16Dec lo hi) 0x00#8 with
  | some (_, some (.s16 v)) => some v.toInt
  | _ => none

/-- V-S16-3, 4, 5, 7, 8, 10, 14. -/
theorem test_s16 : [(0xff#8, 0x00#8), (0x80#8, 0x00#8), (0x00#8, 0x01#8), (0xff#8, 0x7f#8), (0x00#8, 0x80#8), (0xff#8, 0xff#8),
    (0x34#8, 0xf2#8)].map (fun p => s16Value p.1 p.2) =
    [some 255, some 128, some 256, some 32767, some (-32768), some (-1), some (-3532)] := by decide

/-- BIT.GET's answers for the eight bits of a byte. -/
def bitsOf (buf : Bytes) (i : Nat) : List (Option (Byte × Option Response)) :=
  (List.range 8).map fun k => ran (.bitGet buf i (BitVec.ofNat 3 k)) 0x00#8

/-- V-BIT-9. -/
theorem test_bit_a5 : bitsOf [0xa5#8] 0 =
    [true, false, true, false, false, true, false, true].map (fun b => some (0x00#8, some (.bit b))) := by decide
/-- V-BIT-6, V-BIT-11: at and far beyond the end. -/
theorem test_bit_beyond : bitsOf [0x20#8, 0, 0, 0, 0x0c#8] 5 = List.replicate 8 (some (0x00#8, some (.bit false))) ∧
    ran (.bitGet [0x20#8, 0, 0, 0, 0x0c#8] 1000 7) 0x00#8 = some (0x00#8, some (.bit false)) := by decide
/-- V-CLS-1, 4, 5, 8, 10, 11. -/
theorem test_class : [[0x20#8], [0x07#8], [0x03#8, 0x20#8], [0x04#8, 0x20#8], [], [0x21#8], [0x1f#8], [0x06#8], [0x08#8]].map
    (fun b => ran (.rptClass b) 0x00#8) = [ReportClass.input, .system, .ignored, .other, .other, .other, .other, .other, .other].map
    fun c => some (0x00#8, some (.cls c)) := by decide

/-- The report of V-DEC-6. -/
def vDec6 : Bytes :=
  [0x20#8, 0x00#8, 0x5a#8, 0x2c#8, 0x98#8, 0x65#8, 0xff#8, 0x03#8, 0x00#8, 0x00#8, 0x00#8, 0x80#8, 0xff#8, 0x7f#8, 0xff#8,
   0xff#8, 0x00#8, 0x01#8, 0x00#8, 0x00#8, 0x00#8, 0x00#8, 0x01#8, 0x00#8, 0x00#8, 0x00#8, 0x00#8, 0x00#8, 0x00#8, 0x00#8,
   0x00#8, 0x00#8, 0x00#8, 0x00#8, 0x02#8, 0x00#8, 0x00#8, 0x00#8, 0x00#8, 0x00#8, 0x00#8]

/-- V-DEC-6: `buttons = 0x32cd`, `profile = some 2`, LT 1023, RT 0, LX -32768, LY 32767, RX -1, RY 256. -/
theorem test_report_full : ran (.rptDec vDec6) 0x05#8 = some (0x05#8, some (.inputReport
    { buttons := 0x32cd#15, profile := some 0x02#8
      num := { lt := some (BitVec.ofInt 16 1023), rt := some (BitVec.ofInt 16 0), lx := some (BitVec.ofInt 16 (-32768)),
               ly := some (BitVec.ofInt 16 32767), rx := some (BitVec.ofInt 16 (-1)), ry := some (BitVec.ofInt 16 256) }
      axes := some { lx := BitVec.ofInt 16 (-32768), ly := BitVec.ofInt 16 32767, rx := BitVec.ofInt 16 (-1),
                     ry := BitVec.ofInt 16 256, lt := BitVec.ofInt 16 1023, rt := BitVec.ofInt 16 0 } })) := by decide

/-- Which fields of a truncated V-DEC-6 are there: the button mask, the profile byte, the six readings, the tuple. -/
def shape (n : Nat) : BitVec 15 × Bool × BitVec 6 × Bool :=
  let f := inputFields (vDec6.take n)
  (f.buttons, f.profile.isSome, readingsValid f.num, f.axes.isSome)

/-- V-DEC-7, at the lengths where something changes. -/
theorem test_report_truncated : [1, 5, 6, 7, 8, 17, 18, 22, 23, 34, 35].map shape =
    [(0x0000#15, false, 0b000000#6, false), (0x0049#15, false, 0b000000#6, false), (0x32c9#15, false, 0b000000#6, false),
     (0x32c9#15, false, 0b000000#6, false), (0x32c9#15, false, 0b000001#6, false), (0x32c9#15, false, 0b011111#6, false),
     (0x32c9#15, false, 0b111111#6, true), (0x32c9#15, false, 0b111111#6, true), (0x32cd#15, false, 0b111111#6, true),
     (0x32cd#15, false, 0b111111#6, true), (0x32cd#15, true, 0b111111#6, true)] := by decide

/-- V-DEC-9 and V-DEC-10. -/
theorem test_report_gate : ran (.rptDec (0x07#8 :: vDec6.drop 1)) 0x00#8 = some (0x00#8, some .notInput) ∧
    ran (.rptDec []) 0x00#8 = some (0x00#8, some .notInput) := by decide

/-- V-DEC-1 to 3: one bit at a time, in the order of the table there. -/
theorem test_buttons_one_by_one :
    [(4, 0x01#8), (4, 0x02#8), (4, 0x04#8), (4, 0x08#8), (4, 0x10#8), (4, 0x20#8), (4, 0x40#8), (4, 0x80#8), (5, 0x01#8),
     (5, 0x02#8), (5, 0x04#8), (5, 0x08#8), (5, 0x10#8), (5, 0x20#8), (5, 0x40#8), (5, 0x80#8), (22, 0x01#8), (22, 0xfe#8)].map
      (fun p => buttonField (((0x20#8 :: List.replicate 40 0x00#8)).set p.1 p.2)) =
    [0x0000#15, 0x0000#15, 0x0002#15, 0x0001#15, 0x0008#15, 0x0010#15, 0x0020#15, 0x0040#15, 0x0200#15, 0x0400#15, 0x0080#15,
     0x0100#15, 0x0800#15, 0x1000#15, 0x2000#15, 0x4000#15, 0x0004#15, 0x0000#15] := by decide

/-- V-SYS-3, 2, 5, 7, 8. -/
theorem test_sys : [[0x07#8, 0x20#8, 0x00#8, 0x01#8, 0x80#8], [0x07#8, 0x20#8, 0x00#8, 0x01#8, 0x00#8],
    [0x07#8, 0x20#8, 0x00#8, 0x01#8], [0x20#8, 0, 0, 0, 1], []].map (fun b => ran (.sysDec b) 0x00#8) =
    [Response.systemReport true, .systemReport false, .systemReport false, .notSystem, .notSystem].map
      fun r => some (0x00#8, some r) := by decide

/-- The report rows, on V-DEC-8, V-SYS-1, V-CLS-5 and V-CLS-6. -/
theorem test_report_rows :
    ran (.rptInput []) 0x00#8 = some (0x00#8, some (.inputReport {
      buttons := 0#15, profile := none, num := ⟨none, none, none, none, none, none⟩, axes := none })) ∧
    ran (.rptSystem [0x20#8, 0x00#8, 0x01#8, 0x01#8]) 0x00#8 = some (0x00#8, some (.systemReport true)) ∧
    ran (.rptIgnored [0x20#8]) 0x00#8 = some (0x00#8, some (.cls .ignored)) ∧
    ran (.rptOther [0x02#8, 0x20#8, 0x00#8]) 0x00#8 = some (0x00#8, some (.cls .other)) := by decide

/-- V-OP-9. -/
theorem test_reserved :
    [Instr.reserved9, .reservedA, .reservedB, .reservedC, .reservedD, .reservedE, .reservedF].map (fun i => ran i 0x01#8) =
      List.replicate 7 (some (0x01#8, some .illegalOp)) := by decide

/-- Status codes (R193) and class codes (R74). -/
theorem test_codes : [Response.bit true, .illegalOp, .illegalCmd].map (fun r => (responseRecord r).status) = [0, 1, 2] ∧
    [ReportClass.other, .input, .system, .ignored].map classCode = [0, 1, 2, 3] := by decide

/-! ### The assembler (R96, R97; programs P1 and P6) -/

theorem test_asm_rumble : assembleLine "RUMBLE 0x10, 0x20, 0x30, 0x40 ; P1".toList =
    some (.rumble 0x10#8 0x20#8 0x30#8 0x40#8) := by decide
theorem test_asm_bit : assembleLine ("BIT.GET ".toList ++ [openBrace] ++ "20 00*3 08".toList ++ [closeBrace] ++ ", 22, 0".toList) =
    some (.bitGet [0x20#8, 0x00#8, 0x00#8, 0x00#8, 0x08#8] 22 0) := by decide
theorem test_asm_out_of_range : assembleLine "POWER 256".toList = none := by decide

/-! ### Witnesses: the hypotheses of the statements can be met -/

/-- A presentable request of every operation code. -/
theorem witness_requests : ∀ op : BitVec 4, requestPresentable { blankRequest with op := op } = true := by decide
/-- SeqNextReturnsThenIncrements, SeqPeekReturnsAndKeeps, CmdBuild…, RumbleBuild…, S16Dec…, BitGet…, RptClass…, RptDec…,
SysDec…, ReservedCodesAreRefused: their request clauses, with other fields filled. -/
theorem witness_filled_request :
    requestPresentable {
      op := 0x9, cmd := 0x07#8, argc := 0x01#8, args := [0x01#8], motors := ⟨1, 2, 3, 4, 5, 6, 7⟩, lo := 8, hi := 9, bufLen := 1, buf := [0x20#8], byteIdx := 7, bitIdx := 7 } = true ∧ 0x9 ≤ (0x9#4).toNat := by decide
/-- PeekForeshowsTheNextIssue. -/
theorem witness_issues : issues .seqNext = true ∧ issues (.cmdBuild 0x05#8 []) = true ∧ issues (.pktLed []) = true := by decide
/-- IssuedStreamCountsModulo256: a run of two issues from SEQ = 0, and one across the wrap. -/
theorem witness_stream :
    issuedStream [.seqNext, .seqPeek, .cmdBuild 0x07#8 [], .power []] State.reset = [some 0x00#8, some 0x01#8] ∧
    issuedStream [.seqNext, .led []] (at_ 0xff#8) = [some 0xff#8, some 0x00#8] := by decide
/-- OnlyIssuingInstructionsAdvanceSeq, both cases. -/
theorem witness_advance : exec .seqNext (at_ 0xff#8) = .next { seq := 0x00#8, inputs := [], response := some (.seqOut 0xff#8) } ∧
    exec .reserved9 (at_ 0xff#8) = .next { seq := 0xff#8, inputs := [], response := some .illegalOp } := ⟨rfl, rfl⟩
/-- StepOnlyAdvancesOrResetsSeq, its three cases. -/
theorem witness_steps : stepped (at_ 0x05#8) = some (at_ 0x05#8) ∧
    stepped { at_ 0x05#8 with inputs := [.present (encode .seqNext)] } =
      some { at_ 0x06#8 with response := some (.seqOut 0x05#8) } ∧
    stepped { at_ 0x05#8 with inputs := [.reset, .reset] } = some { at_ 0x00#8 with inputs := [.reset] } := by decide
/-- CmdBuildFramesEveryCommand at both ends of `argc`. -/
theorem witness_cmd_args : ([] : Bytes).length = (0x00#8).toNat ∧ (List.replicate 255 0x00#8).length = (0xff#8).toNat ∧
    0x0a#8 ∈ [0x04#8, 0x05#8, 0x06#8, 0x09#8, 0x0a#8] := ⟨rfl, List.length_replicate, by decide⟩
/-- CmdBuildRefusesUnknownCommand, at the neighbours of the enumeration. -/
theorem witness_unknown_command : ∀ c ∈ [0x03#8, 0x07#8, 0x08#8, 0x0b#8, 0xff#8],
    c ∉ [0x04#8, 0x05#8, 0x06#8, 0x09#8, 0x0a#8] := by decide
/-- LengthByteIsTotalMinusFour, FlagsByteTellsTheBuilder, EveryPacketCarriesLegalHeader: a packet of each builder. -/
theorem witness_packet :
    Instr.wf (.pktRumble ⟨0, 0, 0, 0, 0, 0, 0⟩) = true ∧ Instr.wf (.cmdBuild 0x09#8 (List.replicate 255 0x01#8)) = true ∧
    ran (.cmdBuild 0x04#8 []) 0x03#8 = some (0x04#8, some (.packet [0x04#8, 0x20#8, 0x03#8, 0x00#8])) :=
  ⟨rfl, by simp [Instr.wf, argsOk, Config.maxArgs, -List.reduceReplicate], by decide⟩
/-- S16DecInvertsLittleEndian, at both ends of the range. -/
theorem witness_s16_range : (-32768 : Int) ≤ -32768 ∧ (-32768 : Int) ≤ 32767 ∧ (32767 : Int) ≤ 32767 := by decide
/-- BitGetTestsBitOrAnswersFalse and EightBitGetsRecoverTheByte: the last byte, and the first index beyond. -/
theorem witness_bit_index : [0xa5#8].length ≤ 1 ∧ 0 < [0xa5#8].length := by decide
/-- RptDecGatesOnTheTypeByte and the statements on INPUT reports: both sides of the gate. -/
theorem witness_gate : vDec6[0]? = some 0x20#8 ∧ (0x07#8 :: vDec6)[0]? ≠ some 0x20#8 ∧ ([] : Bytes)[0]? ≠ some 0x20#8 := by
  decide
/-- AxisTupleReordersTheReadings and TruncatedReportsLoseFieldsInOrder: 18 bytes have a tuple, 17 have none. -/
theorem witness_tuple : (inputFields (vDec6.take 18)).axes = some ⟨0x8000#16, 0x7fff#16, 0xffff#16, 0x0100#16, 0x03ff#16, 0x0000#16⟩ ∧
    (inputFields (vDec6.take 17)).axes = none := by decide
/-- UnreadReportBytesDoNotMatter: two reports that differ in bytes 1, 18, 40 and in bits 1 to 7 of byte 22. -/
theorem witness_unread :
    let other := (((vDec6.set 1 0xaa#8).set 18 0xbb#8).set 40 0xcc#8).set 22 0xff#8
    other ≠ vDec6 ∧ other[0]? = some 0x20#8 ∧ vDec6.length = other.length ∧
    (∀ i ∈ [4, 5, 6, 7, 8, 9, 10, 11, 12, 13, 14, 15, 16, 17, 34], vDec6[i]? = other[i]?) ∧
    (vDec6[22]?.map fun x => x.getLsbD 0) = (other[22]?.map fun x => x.getLsbD 0) := by decide
/-- SysDecReadsTheWholeIndicatorByte: both sides. -/
theorem witness_sys_gate : [0x07#8][0]? = some 0x07#8 ∧ [0x20#8][0]? ≠ some 0x07#8 := by decide
/-- RptDecAgreesWithThePrimitives: a present reading. -/
theorem witness_reading : (inputFields vDec6).num.lt = some 0x03ff#16 := by decide
/-- ReportRowsRunTheirOperation, its last clause. -/
theorem witness_other : Instr.wf (.rptOther []) = true ∧ Instr.wf (.rptOther [0x02#8]) = true := by decide
/-- RefusalsHaveTwoCausesAndNoEffect, both causes and neither. -/
theorem witness_refusals : ran .reservedF 0x01#8 = some (0x01#8, some .illegalOp) ∧
    ran (.cmdBuild 0x07#8 []) 0x01#8 = some (0x01#8, some .illegalCmd) ∧
    ran .seqPeek 0x01#8 = some (0x01#8, some (.seqOut 0x01#8)) ∧ reservedCode .reservedF = true ∧
    unknownCommand (.cmdBuild 0x07#8 []) = true := by decide
/-- ResponsesDependOnlyOnSeqAndRequest: two states that differ in everything else. -/
theorem witness_same_seq : (at_ 0x05#8).seq = (State.seq { seq := 0x05#8, inputs := [.reset], response := some .illegalOp }) := rfl
/-- EveryRowIsACoreOperation, DecodeInvertsEncode: a well-formed instruction of each format. -/
theorem witness_wf : Instr.wf .seqNext = true ∧ Instr.wf (.auth [0x01#8]) = true ∧ Instr.wf (.pktLed [0x01#8]) = true ∧
    Instr.wf (.rptInput (List.replicate 40 0x00#8)) = true := by decide
/-- StepRunsTheDecodedInstruction, DecodedInstructionsAreCanonical. -/
theorem witness_decodes : decode (.report [0x03#8]) = .ok (.rptIgnored []) ∧
    (State.inputs { at_ 0x00#8 with inputs := [.present (.report [0x03#8])] }) = .present (.report [0x03#8]) :: [] := by decide
/-- StepRefusesOnlyWhatCannotBePresented, both clauses. -/
theorem witness_presentable : codePresentable (.packet [0x04#8]) = false ∧ codePresentable (encode .seqNext) = true ∧
    codePresentable (.report [0x20#8]) = true ∧ codePresentable (.packet [0x04#8, 0x20#8, 0x00#8, 0x00#8]) = true ∧
    codePresentable (.packet [0x04#8, 0x21#8, 0x00#8, 0x00#8]) = false ∧
    (State.inputs { at_ 0x00#8 with inputs := [.present (.packet [0x04#8])] }) = .present (.packet [0x04#8]) :: [] ∧
    stopped { at_ 0x00#8 with inputs := [.present (.packet [0x04#8])] } = some (.cannotBePresented .packetLength) := by decide
/-- NothingHappensUnasked, StepKeepsResponsesLegal. -/
theorem witness_idle : (at_ 0x00#8).inputs = [] ∧ stateLegal { at_ 0x00#8 with response := some (.packet
    [0x04#8, 0x20#8, 0x03#8, 0x00#8]) } = true ∧ stateLegal { at_ 0x00#8 with response := some (.packet [0x04#8]) } = false := by
  decide
/-- UnusedRequestFieldsAreIgnored: SEQ.NEXT with `cmd = 0x07` (V-OP-11). -/
theorem witness_unused : decode (.request { blankRequest with op := 0x0, cmd := 0x07#8, lo := 0x01#8 }) = .ok .seqNext := by decide
/-- PacketImagesDecodeByForm: the premise of each clause, at the ends of the length byte where it has one. -/
theorem witness_images :
    (∀ n : Byte, ([0x05#8, 0x20#8, 0x00#8, 0x03#8, 0xaa#8] : Bytes)[3]? = some n →
      ([0x05#8, 0x20#8, 0x00#8, 0x03#8, 0xaa#8] : Bytes).length ≠ 4 + n.toNat) ∧
    ([] : Bytes).length = (0x00#8).toNat ∧ (List.replicate 255 0x00#8).length = (0xff#8).toNat ∧
    0x07#8 ∉ [0x04#8, 0x05#8, 0x06#8, 0x09#8, 0x0a#8] ∧ 0x04#8 ≠ 0x09#8 ∧ 0x00#8 ≠ 0x09#8 ∧
    0x21#8 ≠ 0x20#8 ∧ 0x21#8 ≠ 0x00#8 := by
  refine ⟨?_, rfl, List.length_replicate, by decide⟩
  intro n h
  cases h
  decide
/-- EmittedPacketsReadBack: an instruction that answers a packet. -/
theorem witness_emitted : Instr.wf (.cmdBuild 0x04#8 []) = true ∧ exec (.cmdBuild 0x04#8 []) (at_ 0x03#8) =
    .next { at_ 0x04#8 with response := some (.packet [0x04#8, 0x20#8, 0x03#8, 0x00#8]) } := ⟨rfl, rfl⟩
/-- AssemblerKeepsOperandOrder: both sides of every range, and a bad operand at the first and at the last position. -/
theorem witness_assembles : ([0x20#8] : Bytes).length ≤ Config.maxReportLen ∧
    assembleLine ("BIT.GET ".toList ++ [openBrace, '2', '0', closeBrace] ++ ", 0, 8".toList) = none ∧
    assembleLine "RUMBLE 1, 2, 3, 256".toList = none ∧ assembleLine "CMD.BUILD 256, 1".toList = none ∧
    (∃ o ∈ [AsmOperand.num 1, .num 256], (∃ n, 256 ≤ n ∧ o = .num n) ∨ ∃ bs, o = .buf bs) ∧
    assemblerForm (.s16Dec 0x08#8 0x00#8) = some (.s16Dec, [.num 8, .num 0]) ∧
    assemble .s16Dec [.num 8, .num 0] = some (.s16Dec 0x08#8 0x00#8) ∧
    ([0x01#8] : Bytes).length ≤ 255 ∧ 256 ≤ 256 :=
  ⟨by decide, by decide, by decide, by decide, ⟨.num 256, by simp, .inl ⟨256, le_rfl, rfl⟩⟩, rfl, rfl, by decide, le_rfl⟩

/-- The system in a phase, the block at a sequence value. -/
def sysIn (p : Phase) (q : Byte) : System :=
  { block := at_ q, host := { systemStart.host with phase := p } }

/-- A 5-byte INPUT report with SELECT active (REP_T of program P6), and a full one with neither SELECT nor START. -/
def repSelect : Bytes := [0x20#8, 0x00#8, 0x00#8, 0x00#8, 0x08#8]

/-- SessionKeepsSequenceUnbroken: a step in Running. -/
theorem witness_session_step : sequenceUnbroken (sysIn .running 0x00#8) = true ∧
    (happened (.poll 10 (some repSelect)) (sysIn .running 0x00#8)).map (fun t => (t.host.holdSince, t.host.display.lastSeq)) =
      some (some 10, some 0x00#8) := by decide
/-- EntryToRunningSendsPowerThenLed, DrainingStopsTheMotors. -/
theorem witness_phases : (sysIn .configuring 0x00#8).host.phase = .configuring ∧ (sysIn .draining 0x00#8).host.phase = .draining ∧
    Event.deviceFound ≠ Event.writeFailed := by decide
/-- RumbleIsSentOnlyOnChange: an 18-byte report has a tuple; the parameters differ from none and equal themselves. -/
theorem witness_rumble : bufOk (vDec6.take 18) = true ∧
    decodeInput (vDec6.take 18) = .inputReport (inputFields (vDec6.take 18)) ∧
    (inputFields (vDec6.take 18)).axes.isSome = true ∧ (sysIn .running 0x00#8).host.lastRumble = none ∧
    (sysIn .running 0x00#8).host.phase = .running := by decide
/-- RumbleIsSentOnlyOnChange, both clauses on the last-sent parameters, for any tuple. -/
theorem witness_last_rumble (ax : AxisTuple) :
    (none : Option RumbleParams) ≠ some (Config.derive ax) ∧ some (Config.derive ax) = some (Config.derive ax) :=
  ⟨nofun, rfl⟩
/-- PollsWithoutDataLeaveTheBlock: an empty read changes nothing while no timer runs, and drains one that has run out; an
empty report is not dumped (R142, R175). -/
theorem witness_no_data : (sysIn .running 0x05#8).host.phase = .running ∧
    happened (.poll 10 (some [])) (sysIn .running 0x05#8) = some (sysIn .running 0x05#8) ∧
    (happened (.poll 2010 (some [])) { sysIn .running 0x00#8 with
      host := { (sysIn .running 0x00#8).host with holdSince := some 10 } }).map (fun t => t.host.phase) = some .draining := by
  decide
/-- HoldingSelectOrStartDrains: SELECT active, held exactly 2.0 seconds; and neither active. -/
theorem witness_hold : decodeInput repSelect = .inputReport (inputFields repSelect) ∧
    (inputFields repSelect).buttons.getLsbD 0 = true ∧ (inputFields [0x20#8]).buttons.getLsbD 0 = false ∧
    (inputFields [0x20#8]).buttons.getLsbD 1 = false ∧
    (happened (.poll 2010 (some repSelect)) { sysIn .running 0x00#8 with
      host := { (sysIn .running 0x00#8).host with holdSince := some 10 } }).map (fun t => t.host.phase) = some .draining := by
  decide

end Sys2Proof.Tests
end

section
/-! The reads of a report buffer through BIT.GET (20_memory.md R45). -/

namespace Sys2Proof.Machine

/-- A presentable request decodes by the operation-select table (R71). -/
theorem decode_request {r : Request} (h : requestPresentable r = true) : decode (.request r) = .ok (opInstr r) :=
  decodeRequest_presentable h

theorem opInstr_bitGet {r : Request} (h : r.op = 0x5#4) : opInstr r = .bitGet r.buf r.byteIdx r.bitIdx := by
  simp [opInstr, h]

theorem exec_bitGet (buf : Bytes) (i : Nat) (k : BitVec 3) (s : State) :
    exec (.bitGet buf i k) s = .next { s with response := some (.bit (rptBit buf i k.toNat)) } :=
  exec_eq ..

/-- Bit `k` of a byte in the words of R45: shift it down and mask it. -/
theorem getLsbD_eq_decide_shift_and (b : Byte) (k : Nat) : b.getLsbD k = decide ((b.toNat >>> k) &&& 1 = 1) := by
  rw [← BitVec.testBit_toNat, Nat.testBit_eq_decide_div_mod_eq, Nat.and_one_is_mod, Nat.shiftRight_eq_div_pow]

/-- `rptBit_beyond`'s other half: inside the buffer the bit is the byte's. -/
theorem rptBit_inside {buf : Bytes} {i : Nat} (h : i < buf.length) (k : Nat) : rptBit buf i k = buf[i].getLsbD k := by
  simp [rptBit, rptRead, h]

/-- Settles O18: BIT.GET answers `rptBit`, which `rptBit_beyond` and `rptBit_inside` give on the two sides of the
buffer's end. -/
theorem bitGetTestsBitOrAnswersFalse : Obligations.BitGetTestsBitOrAnswersFalse := by
  refine ⟨fun r hr hop => ?_, fun buf i k s => ⟨fun hbeyond => ?_, fun hinside => ?_⟩⟩
  · rw [decode_request hr, opInstr_bitGet hop]
  · rw [exec_bitGet, rptBit_beyond hbeyond]
  · rw [exec_bitGet, rptBit_inside hinside, getLsbD_eq_decide_shift_and]

end Sys2Proof.Machine
end

section
/-! The packets the builds answer (30_encoding.md R81, R84). -/

namespace Sys2Proof.Machine

open Sys2Proof.Safety

theorem opInstr_rumbleBuild {r : Request} (h : r.op = 0x3#4) : opInstr r = .rumbleBuild r.motors := by
  simp [opInstr, h]

theorem exec_cmdBuild_known {cmd : Byte} (h : isCommand cmd = true) (args : Bytes) (s : State) :
    exec (.cmdBuild cmd args) s = .next { seq := s.seq + 1, inputs := s.inputs,
                                          response := some (.packet (genericPacket cmd s.seq args)) } :=
  buildCommand_known h args s

theorem exec_rumbleBuild (m : RumbleParams) (s : State) :
    exec (.rumbleBuild m) s = .next { seq := s.seq + 1, inputs := s.inputs,
                                      response := some (.packet (rumblePacket s.seq m)) } :=
  buildRumble_eq m s

/-- The increment of SEQ as the number of R21. -/
theorem toNat_add_one_eq_nextCount (v : Byte) : (v + 1).toNat = nextCount v := by
  simp [nextCount]

theorem genericPacket_flags (cmd seq : Byte) (args : Bytes) : (genericPacket cmd seq args)[1]? = some 0x20#8 := rfl

theorem rumblePacket_flags (seq : Byte) (m : RumbleParams) : (rumblePacket seq m)[1]? = some 0x00#8 := rfl

theorem decodeInput_ne_packet (buf p : Bytes) : decodeInput buf ≠ .packet p := by
  unfold decodeInput
  split <;> nofun

theorem decodeSystem_ne_packet (buf p : Bytes) : decodeSystem buf ≠ .packet p := by
  unfold decodeSystem
  split <;> nofun

/-- A packet in a response is one of a generic command of the enumeration or a rumble packet, and carries SEQ. -/
theorem responseOf_packet_cases {i : Instr} {q : Byte} {p : Bytes} (h : responseOf i q = .packet p) :
    (∃ cmd args, p = genericPacket cmd q args ∧ isCommand cmd = true) ∨ ∃ m, p = rumblePacket q m := by
  cases i
  case cmdBuild cmd args =>
    by_cases hc : isCommand cmd = true
    · rw [responseOf, if_pos hc] at h
      exact .inl ⟨cmd, args, (Response.packet.inj h).symm, hc⟩
    · rw [responseOf, if_neg hc] at h
      cases h
  case identify args | power args | auth args | led args | pktIdentify args | pktPower args | pktAuthenticate args
      | pktRumbleGeneric args | pktLed args =>
    exact .inl ⟨_, args, (Response.packet.inj h).symm, rfl⟩
  case rumbleBuild m | pktRumble m => exact .inr ⟨m, (Response.packet.inj h).symm⟩
  case rumble lt rt ls rs => exact .inr ⟨defaultTiming lt rt ls rs, (Response.packet.inj h).symm⟩
  case rptDec | rptInput => exact absurd h (decodeInput_ne_packet _ p)
  case sysDec | rptSystem => exact absurd h (decodeSystem_ne_packet _ p)
  all_goals cases h

/-- `responseOf_packet_cases` for the packet an instruction answers. -/
theorem exec_packet_cases {i : Instr} {s t : State} {p : Bytes} (h : exec i s = .next t)
    (hp : t.response = some (.packet p)) :
    (∃ cmd args, p = genericPacket cmd s.seq args ∧ isCommand cmd = true) ∨ ∃ m, p = rumblePacket s.seq m := by
  rw [eq_of_exec h] at hp
  exact responseOf_packet_cases (Option.some.inj hp)

/-- Settles O11: every packet is of one of the two builders (`exec_packet_cases`), and each has its own flags byte. -/
theorem flagsByteTellsTheBuilder : Obligations.FlagsByteTellsTheBuilder := by
  refine ⟨fun i s t p h hp => ?_, fun cmd args s hcmd => ?_, fun m s => ?_⟩
  · obtain ⟨cmd, args, rfl, -⟩ | ⟨m, rfl⟩ := exec_packet_cases h hp
    · exact .inl (genericPacket_flags ..)
    · exact .inr (rumblePacket_flags ..)
  · have hc : isCommand cmd = true := (isCommand_iff cmd).2 (by simpa using hcmd)
    exact ⟨_, _, exec_cmdBuild_known hc args s, rfl, genericPacket_flags ..⟩
  · exact ⟨_, _, exec_rumbleBuild m s, rfl, rumblePacket_flags ..⟩

/-- Settles O9: op 0x3 is RUMBLE.BUILD, whose packet is `rumblePacket`. -/
theorem rumbleBuildEmitsThirteenBytes : Obligations.RumbleBuildEmitsThirteenBytes := by
  refine ⟨fun r hr hop => ?_, fun lt rt ls rs on off rep s => ?_⟩
  · rw [decode_request hr, opInstr_rumbleBuild hop]
  · exact ⟨_, exec_rumbleBuild _ s, rfl, toNat_add_one_eq_nextCount s.seq, rfl⟩

end Sys2Proof.Machine
end

section
/-! The axis tuple of an INPUT report (30_encoding.md R89, 42_input_decoder.md R146). -/

namespace Sys2Proof.Machine

theorem decodeInput_input {buf : Bytes} (h : buf[0]? = some 0x20#8) : decodeInput buf = .inputReport (inputFields buf) :=
  if_pos h

theorem exec_rptDec (buf : Bytes) (s : State) :
    exec (.rptDec buf) s = .next { s with response := some (decodeInput buf) } :=
  exec_eq ..

/-- A tuple is there exactly when all six readings are, and holds them in the order of R89. -/
theorem axisTuple_eq_some_iff (n : Readings) (a : AxisTuple) :
    axisTuple n = some a ↔ n.lx = some a.lx ∧ n.ly = some a.ly ∧ n.rx = some a.rx ∧ n.ry = some a.ry ∧
      n.lt = some a.lt ∧ n.rt = some a.rt := by
  cases a
  simp [axisTuple, Option.bind_eq_some_iff]

theorem axisTuple_isSome_iff (n : Readings) :
    (axisTuple n).isSome = true ↔ n.lx.isSome = true ∧ n.ly.isSome = true ∧ n.rx.isSome = true ∧ n.ry.isSome = true ∧
      n.lt.isSome = true ∧ n.rt.isSome = true := by
  simp only [Option.isSome_iff_exists, axisTuple_eq_some_iff]
  constructor
  · rintro ⟨a, hlx, hly, hrx, hry, hlt, hrt⟩
    exact ⟨⟨_, hlx⟩, ⟨_, hly⟩, ⟨_, hrx⟩, ⟨_, hry⟩, ⟨_, hlt⟩, ⟨_, hrt⟩⟩
  · rintro ⟨⟨lx, hlx⟩, ⟨ly, hly⟩, ⟨rx, hrx⟩, ⟨ry, hry⟩, ⟨lt, hlt⟩, ⟨rt, hrt⟩⟩
    exact ⟨⟨lx, ly, rx, ry, lt, rt⟩, hlx, hly, hrx, hry, hlt, hrt⟩

/-- The reading that ends last, RY, ends at byte 17. -/
theorem inputFields_axes_isSome_iff (buf : Bytes) : (inputFields buf).axes.isSome = true ↔ 18 ≤ buf.length := by
  simp only [inputFields, axisTuple_isSome_iff, readings, readAxis_isSome_iff, axisOffset]
  omega

/-- Settles O24: the tuple of the decoded fields is `axisTuple` of their readings. -/
theorem axisTupleReordersTheReadings : Obligations.AxisTupleReordersTheReadings := by
  intro buf s h
  refine ⟨inputFields buf, by rw [exec_rptDec, decodeInput_input h], (inputFields_axes_isSome_iff buf).2, fun a ha => ?_⟩
  obtain ⟨hlx, hly, hrx, hry, hlt, hrt⟩ := (axisTuple_eq_some_iff (inputFields buf).num a).1 ha
  exact ⟨hlx.symm, hly.symm, hrx.symm, hry.symm, hlt.symm, hrt.symm⟩

end Sys2Proof.Machine
end

section
/-! The sequence counter (40_sequence_counter.md R110). -/

namespace Sys2Proof.Machine

open Sys2Proof.Safety

theorem opInstr_seqNext {r : Request} (h : r.op = 0x0#4) : opInstr r = .seqNext := by
  simp [opInstr, h]

theorem exec_seqNext (s : State) :
    exec .seqNext s = .next { seq := s.seq + 1, inputs := s.inputs, response := some (.seqOut s.seq) } :=
  exec_eq ..

/-- Settles O1: op 0x0 is SEQ.NEXT, whose next state `exec_seqNext` gives; its SEQ is the number `nextCount`. -/
theorem seqNextReturnsThenIncrements : Obligations.SeqNextReturnsThenIncrements := by
  refine ⟨fun r hr hop => ?_, fun s => ?_⟩
  · rw [decode_request hr, opInstr_seqNext hop]
  · exact ⟨_, exec_seqNext s, rfl, rfl, toNat_add_one_eq_nextCount s.seq, rfl⟩

end Sys2Proof.Machine
end

section
/-! The length byte of a packet (41_packet_encoder.md R122). -/

namespace Sys2Proof.Machine

theorem genericPacket_lengthByte (cmd seq : Byte) (args : Bytes) :
    (genericPacket cmd seq args)[3]? = some (BitVec.ofNat 8 args.length) := rfl

theorem rumblePacket_lengthByte (seq : Byte) (m : RumbleParams) : (rumblePacket seq m)[3]? = some 0x09#8 := rfl

theorem genericPacket_length_le {args : Bytes} (h : argsOk args = true) (cmd seq : Byte) :
    (genericPacket cmd seq args).length ≤ 259 := by
  have hle := (argsOk_iff args).1 h
  rw [genericPacket_length]
  omega

/-- The upper bound of R123: the arguments of a well-formed instruction are at most 255 bytes, a rumble packet has 13. -/
theorem responseOf_packet_length_le {i : Instr} {q : Byte} {p : Bytes} (hwf : i.wf = true)
    (h : responseOf i q = .packet p) : p.length ≤ 259 := by
  cases i
  case cmdBuild cmd args =>
    by_cases hc : isCommand cmd = true
    · rw [responseOf, if_pos hc] at h
      exact Response.packet.inj h ▸ genericPacket_length_le hwf cmd q
    · rw [responseOf, if_neg hc] at h
      cases h
  case identify | power | auth | led | pktIdentify | pktPower | pktAuthenticate | pktRumbleGeneric | pktLed =>
    exact Response.packet.inj h ▸ genericPacket_length_le hwf _ q
  case rumbleBuild | pktRumble | rumble =>
    rw [← Response.packet.inj h, rumblePacket_length]
    decide
  case rptDec | rptInput => exact absurd h (decodeInput_ne_packet _ p)
  case sysDec | rptSystem => exact absurd h (decodeSystem_ne_packet _ p)
  all_goals cases h

/-- `exec_packet_cases` for a well-formed instruction: the arguments of a generic packet fit its length byte. -/
theorem exec_packet_cases_of_wf {i : Instr} {s t : State} {p : Bytes} (hwf : i.wf = true) (h : exec i s = .next t)
    (hp : t.response = some (.packet p)) :
    (∃ cmd args, p = genericPacket cmd s.seq args ∧ isCommand cmd = true ∧ argsOk args = true) ∨
      ∃ m, p = rumblePacket s.seq m := by
  have hle : p.length ≤ 259 := by
    rw [eq_of_exec h] at hp
    exact responseOf_packet_length_le hwf (Option.some.inj hp)
  obtain ⟨cmd, args, rfl, hc⟩ | hrumble := exec_packet_cases h hp
  · rw [genericPacket_length] at hle
    exact .inl ⟨cmd, args, rfl, hc, (argsOk_iff args).2 (by omega)⟩
  · exact .inr hrumble

/-- Settles O10: a packet is of one of the two builders, and a legal argument count fits its byte (`toNat_argc`). -/
theorem lengthByteIsTotalMinusFour : Obligations.LengthByteIsTotalMinusFour := by
  refine ⟨fun i s t p hwf h hp => ?_, fun cmd args s hargs hcmd => ?_, fun m s => ?_⟩
  · obtain ⟨cmd, args, rfl, -, hargs⟩ | ⟨m, rfl⟩ := exec_packet_cases_of_wf hwf h hp
    · refine ⟨_, genericPacket_lengthByte .., ?_⟩
      rw [genericPacket_length, toNat_argc hargs, Nat.add_comm]
    · exact ⟨_, rumblePacket_lengthByte .., rfl⟩
  · have hc : isCommand cmd = true := (isCommand_iff cmd).2 (by simpa using hcmd)
    exact ⟨_, _, _, exec_cmdBuild_known hc args s, rfl, genericPacket_lengthByte ..,
      toNat_argc ((argsOk_iff args).2 hargs), genericPacket_length ..⟩
  · exact ⟨_, _, exec_rumbleBuild m s, rfl, rumblePacket_lengthByte .., rumblePacket_length ..⟩

end Sys2Proof.Machine
end

section
/-! The signed 16-bit reading (42_input_decoder.md R140). -/

namespace Sys2Proof.Machine

open Sys2Proof.Safety

theorem opInstr_s16Dec {r : Request} (h : r.op = 0x4#4) : opInstr r = .s16Dec r.lo r.hi := by
  simp [opInstr, h]

theorem exec_s16Dec (lo hi : Byte) (s : State) :
    exec (.s16Dec lo hi) s = .next { s with response := some (.s16 (s16 lo hi)) } :=
  exec_eq ..

theorem s16_toNat (lo hi : Byte) : (s16 lo hi).toNat = lo.toNat ||| (hi.toNat <<< 8) := by
  simp (disch := omega) [s16, Nat.mod_eq_of_lt]

/-- The two bytes do not overlap, so the pattern of R140 is their little-endian sum. -/
theorem s16_toNat_eq_add (lo hi : Byte) : (s16 lo hi).toNat = lo.toNat + 256 * hi.toNat := by
  have hor : hi.toNat <<< 8 + lo.toNat = hi.toNat <<< 8 ||| lo.toNat := Nat.shiftLeft_add_eq_or_of_lt lo.isLt hi.toNat
  rw [s16_toNat, Nat.or_comm, ← hor, Nat.shiftLeft_eq]
  omega

theorem s16_toInt (lo hi : Byte) : (s16 lo hi).toInt = signedPair lo hi := by
  rw [BitVec.toInt_eq_toNat_cond, s16_toNat_eq_add, signedPair]
  split_ifs <;> omega

theorem signedPair_neg_iff (lo hi : Byte) : signedPair lo hi < 0 ↔ 0x80 ≤ hi.toNat := by
  rw [signedPair]
  split_ifs <;> omega

/-- Settles O16: op 0x4 is S16.DEC, which answers `s16`; its value is `signedPair`, whose sign is the high byte's. -/
theorem s16DecIsTwosComplement : Obligations.S16DecIsTwosComplement := by
  refine ⟨fun r hr hop => ?_, fun lo hi s => ?_⟩
  · rw [decode_request hr, opInstr_s16Dec hop]
  · refine ⟨_, exec_s16Dec lo hi s, rfl, s16_toNat lo hi, s16_toInt lo hi, ?_⟩
    rw [s16_toInt, signedPair_neg_iff]

end Sys2Proof.Machine
end

section
/-! The buttons of an INPUT report (30_encoding.md R87, 42_input_decoder.md R144). -/

namespace Sys2Proof.Machine

theorem exec_rptDec_input {buf : Bytes} (h : buf[0]? = some 0x20#8) (s : State) :
    exec (.rptDec buf) s = .next { s with response := some (.inputReport (inputFields buf)) } := by
  rw [exec_rptDec, decodeInput_input h]

theorem rptBit_eq_true_iff (buf : Bytes) (i k : Nat) :
    rptBit buf i k = true ↔ ∃ b : Byte, buf[i]? = some b ∧ b.getLsbD k = true := by
  unfold rptBit rptRead
  cases buf[i]? <;> simp

/-- The flag at a button's display index is the bit at that button's place. -/
theorem inputFields_buttons_iff (buf : Bytes) (k : Button) :
    (inputFields buf).buttons.getLsbD (buttonIndex k) = true ↔
      ∃ b : Byte, buf[(buttonPlace k).1]? = some b ∧ b.getLsbD (buttonPlace k).2 = true := by
  rw [← rptBit_eq_true_iff, inputFields, buttonField_getLsbD, buttonActive]

/-- The table of R144, display index, byte and bit, is the model's table of buttons in display order. -/
theorem buttonOrder_map_index_place :
    buttonOrder.map (fun k => (buttonIndex k, buttonPlace k)) =
      [(0, 4, 3), (1, 4, 2), (2, 22, 0), (3, 4, 4), (4, 4, 5), (5, 4, 6), (6, 4, 7), (7, 5, 2), (8, 5, 3),
       (9, 5, 0), (10, 5, 1), (11, 5, 4), (12, 5, 5), (13, 5, 6), (14, 5, 7)] := by
  decide

/-- Settles O22: each row of the table is a button's, whose flag `inputFields_buttons_iff` gives. -/
theorem buttonsFollowTheTable : Obligations.ButtonsFollowTheTable := by
  intro buf s h
  refine ⟨inputFields buf, exec_rptDec_input h s, fun row hrow => ?_⟩
  rw [← buttonOrder_map_index_place] at hrow
  obtain ⟨k, -, rfl⟩ := List.mem_map.1 hrow
  exact inputFields_buttons_iff buf k

end Sys2Proof.Machine
end

section
/-! What RPT.DEC reads of an INPUT report (42_input_decoder.md R148). -/

namespace Sys2Proof.Machine

/-- The bytes of an INPUT report that RPT.DEC reads whole (R148); of byte 22 it reads bit 0 alone. -/
def wholeBytesRead : List Nat := [4, 5, 6, 7, 8, 9, 10, 11, 12, 13, 14, 15, 16, 17, 34]

/-- REC is the one button outside the bytes that are read whole. -/
theorem buttonPlace_mem_wholeBytesRead {k : Button} (hk : k ≠ .recBtn) : (buttonPlace k).1 ∈ wholeBytesRead := by
  cases k
  case recBtn => exact absurd rfl hk
  all_goals decide

theorem axisOffset_mem_wholeBytesRead (a : Axis) :
    axisOffset a ∈ wholeBytesRead ∧ axisOffset a + 1 ∈ wholeBytesRead := by
  cases a <;> decide

theorem rptBit_eq_getD_map (buf : Bytes) (i k : Nat) :
    rptBit buf i k = (buf[i]?.map fun x => x.getLsbD k).getD false := by
  unfold rptBit rptRead
  cases buf[i]? <;> rfl

section
variable {buf buf' : Bytes} (hbytes : ∀ i ∈ wholeBytesRead, buf[i]? = buf'[i]?)
include hbytes

theorem buttonActive_congr (hrec : (buf[22]?.map fun x => x.getLsbD 0) = buf'[22]?.map fun x => x.getLsbD 0)
    (k : Button) : buttonActive buf k = buttonActive buf' k := by
  rw [buttonActive, buttonActive, rptBit_eq_getD_map, rptBit_eq_getD_map]
  by_cases hk : k = .recBtn
  · subst hk
    exact congrArg (Option.getD · false) hrec
  · rw [hbytes _ (buttonPlace_mem_wholeBytesRead hk)]

theorem readAxis_congr (a : Axis) : readAxis buf a = readAxis buf' a := by
  obtain ⟨hlo, hhi⟩ := axisOffset_mem_wholeBytesRead a
  simp only [readAxis, rptRead16, rptRead, hbytes _ hlo, hbytes _ hhi]

/-- The fields of an INPUT report are its buttons, its profile byte and its readings; each is unchanged. -/
theorem inputFields_congr (hrec : (buf[22]?.map fun x => x.getLsbD 0) = buf'[22]?.map fun x => x.getLsbD 0) :
    inputFields buf = inputFields buf' := by
  have hbuttons : buttonActive buf = buttonActive buf' := funext (buttonActive_congr hbytes hrec)
  have hprofile : rptRead buf profileOffset = rptRead buf' profileOffset := hbytes profileOffset (by decide)
  have hreadings : readings buf = readings buf' := by
    simp only [readings, readAxis_congr hbytes]
  rw [inputFields, inputFields, buttonField, buttonField, hbuttons, hprofile, hreadings]

end

/-- Settles O26: both runs answer `inputFields`, which `inputFields_congr` shows equal. -/
theorem unreadReportBytesDoNotMatter : Obligations.UnreadReportBytesDoNotMatter := by
  intro buf buf' s h h' _ hbytes hrec
  refine ⟨inputFields buf, exec_rptDec_input h s, ?_⟩
  rw [exec_rptDec_input h, exec_rptDec_input h', inputFields_congr hbytes hrec]

end Sys2Proof.Machine
end

section
/-! The decoder undoes the encoder (30_encoding.md sections 1, 3, 4 and 7). -/

namespace Sys2Proof.Machine

/-- A well-formed generic image decodes by its command id. -/
theorem decode_genericImage {args : Bytes} (h : argsOk args = true) (id : Byte) :
    decode (genericImage id args) = genericPacketInstr id args :=
  decodePacket_whole (toNat_argc h) id 0x20#8 0x00#8

theorem decode_report {buf : Bytes} (h : bufOk buf = true) : decode (.report buf) = .ok (reportInstr buf) :=
  if_pos h

theorem reportInstr_of_typeByteUnknown {buf : Bytes} (h : typeByteUnknown buf = true) : reportInstr buf = .rptOther buf := by
  cases buf with
  | nil => rfl
  | cons t rest =>
    obtain ⟨hinput, hsystem, hignored⟩ := of_decide_eq_true h
    rw [reportInstr, if_neg hinput, if_neg hsystem, if_neg hignored]

/-- Each code space in turn: a presentable request decodes by its `op`, a packet image by its form, a report by its
type byte. -/
theorem decode_encode {i : Instr} (h : i.wf = true) : decode (encode i) = .ok (expandPseudo i) := by
  cases i
  case cmdBuild | identify | power | auth | led => exact decode_request (cmdRequest_presentable h _)
  case rumbleBuild | rumble => exact decode_request (rumbleRequest_presentable _)
  case s16Dec lo hi => exact decode_request (Laws.EncodesPresentable.s16Dec lo hi h)
  case bitGet buf i k => exact decode_request (Laws.EncodesPresentable.bitGet buf i k h)
  case rptClass | rptDec | sysDec => exact decode_request (bufRequest_presentable h _)
  case pktIdentify | pktPower | pktAuthenticate | pktRumbleGeneric | pktLed => exact decode_genericImage h _
  case pktRumble => rfl
  case rptInput | rptSystem | rptIgnored => exact decode_report h
  case rptOther buf =>
    obtain ⟨hlen, htype⟩ := Bool.and_eq_true_iff.1 h
    rw [encode, decode_report hlen, reportInstr_of_typeByteUnknown htype, expandPseudo]
  all_goals exact decode_request (opRequest_presentable _)

/-- Settles O43: `decode_encode`, by cases on the instruction. -/
theorem decodeInvertsEncode : Obligations.DecodeInvertsEncode :=
  fun _ h => decode_encode h

/-! ### What decodes -/

/-- What decodes is canonical: well-formed, and no pseudo-instruction. -/
def Canonical (i : Instr) : Prop := i.wf = true ∧ expandPseudo i = i

theorem decodeRequest_ok_iff {r : Request} {i : Instr} :
    decodeRequest r = .ok i ↔ requestPresentable r = true ∧ opInstr r = i := by
  unfold decodeRequest requestPresentable
  split_ifs <;> simp_all

theorem argsOk_of_presentable {r : Request} (h : requestPresentable r = true) : argsOk r.args = true := by
  simp only [requestPresentable, Bool.and_eq_true, decide_eq_true_eq] at h
  rw [argsOk_iff]
  omega

theorem bufOk_of_presentable {r : Request} (h : requestPresentable r = true) : bufOk r.buf = true :=
  (Bool.and_eq_true_iff.1 h).2

theorem opInstr_canonical {r : Request} (h : requestPresentable r = true) : Canonical (opInstr r) := by
  have hargs := argsOk_of_presentable h
  have hbuf := bufOk_of_presentable h
  unfold opInstr
  split
  case h_3 => exact ⟨hargs, rfl⟩
  case h_6 | h_7 | h_8 | h_9 => exact ⟨hbuf, rfl⟩
  all_goals exact ⟨rfl, rfl⟩

theorem genericPacketInstr_canonical {id : Byte} {payload : Bytes} {i : Instr} (hargs : argsOk payload = true)
    (h : genericPacketInstr id payload = .ok i) : Canonical i := by
  unfold genericPacketInstr at h
  split_ifs at h <;> cases h <;> exact ⟨hargs, rfl⟩

theorem rumblePacketInstr_canonical {payload : Bytes} {i : Instr} (h : rumblePacketInstr payload = .ok i) :
    Canonical i := by
  unfold rumblePacketInstr at h
  split at h <;> cases h
  exact ⟨rfl, rfl⟩

theorem decodePacket_canonical {image : Bytes} {i : Instr} (h : decodePacket image = .ok i) : Canonical i := by
  by_cases hw : packetWhole image = true
  · obtain ⟨id, flags, seq, n, payload, rfl, hn⟩ := packetWhole_shape hw
    have hargs : argsOk payload = true := (argsOk_iff payload).2 (by omega)
    rw [decodePacket_whole hn] at h
    split_ifs at h
    · exact genericPacketInstr_canonical hargs h
    · exact rumblePacketInstr_canonical h
  · rw [decodePacket, if_neg hw] at h
    cases h

theorem reportInstr_canonical {buf : Bytes} (h : bufOk buf = true) : Canonical (reportInstr buf) := by
  unfold reportInstr
  split
  · exact ⟨rfl, rfl⟩
  · split_ifs with hinput hsystem hignored
    · subst hinput
      exact ⟨h, rfl⟩
    · subst hsystem
      exact ⟨h, rfl⟩
    · subst hignored
      exact ⟨h, rfl⟩
    · exact ⟨Bool.and_eq_true_iff.2 ⟨h, decide_eq_true ⟨hinput, hsystem, hignored⟩⟩, rfl⟩

theorem decode_canonical {c : Code} {i : Instr} (h : decode c = .ok i) : Canonical i := by
  cases c with
  | request r =>
    obtain ⟨hr, rfl⟩ := decodeRequest_ok_iff.1 h
    exact opInstr_canonical hr
  | packet image => exact decodePacket_canonical h
  | report buf =>
    by_cases hb : bufOk buf = true
    · rw [decode_report hb] at h
      exact Decoded.ok.inj h ▸ reportInstr_canonical hb
    · rw [decode, decodeReport, if_neg hb] at h
      cases h

/-- Settles O44: what decodes is canonical, so `decode_encode` gives it back. -/
theorem decodedInstructionsAreCanonical : Obligations.DecodedInstructionsAreCanonical := by
  intro c i h
  obtain ⟨hwf, hcore⟩ := decode_canonical h
  refine ⟨hwf, hcore, ?_⟩
  rw [decode_encode hwf, hcore]

/-- Decoding succeeds exactly on what can be presented. -/
theorem decode_ok_iff (c : Code) : (∃ i, decode c = .ok i) ↔ codePresentable c = true := by
  cases c with
  | request r => simp [decode, decodeRequest_ok_iff, codePresentable]
  | packet image => exact decodePacket_ok_iff image
  | report buf =>
    by_cases hb : bufOk buf = true <;> simp [decode, decodeReport, codePresentable, hb]

end Sys2Proof.Machine
end

section
/-! The invariant: a step answers only responses the block may return (41_packet_encoder.md R122 and R123,
42_input_decoder.md R146 and R147). -/

namespace Sys2Proof.Machine

open Sys2Proof.Safety

theorem decodeInput_cases (buf : Bytes) :
    decodeInput buf = .inputReport (inputFields buf) ∨ decodeInput buf = .notInput := by
  unfold decodeInput
  split
  · exact .inl rfl
  · exact .inr rfl

theorem decodeSystem_cases (buf : Bytes) :
    decodeSystem buf = .systemReport (indicatorActive buf) ∨ decodeSystem buf = .notSystem := by
  unfold decodeSystem
  split
  · exact .inl rfl
  · exact .inr rfl

theorem decodeSystem_ne_inputReport (buf : Bytes) (f : InputReport) : decodeSystem buf ≠ .inputReport f := by
  obtain h | h := decodeSystem_cases buf <;> rw [h] <;> nofun

/-- The readings stand in offset order before the profile byte, so none is present beyond an absent one. -/
theorem inputFields_legal (buf : Bytes) : inputReportLegal (inputFields buf) = true := by
  have hprefix : readingsPrefix (readings buf) = true := by
    simp only [readingsPrefix, readings, readAxis_isSome_iff, axisOffset, Bool.and_eq_true, decide_eq_true_eq]
    omega
  have hprofile : (rptRead buf profileOffset).isSome = true → (readings buf).ry.isSome = true := by
    simp only [readings, rptRead_isSome_iff, readAxis_isSome_iff, axisOffset, profileOffset]
    omega
  exact Bool.and_eq_true_iff.2 ⟨Bool.and_eq_true_iff.2 ⟨decide_eq_true rfl, hprefix⟩, decide_eq_true hprofile⟩

theorem decodeInput_legal (buf : Bytes) : responseLegal (decodeInput buf) = true := by
  obtain h | h := decodeInput_cases buf
  · rw [h]
    exact inputFields_legal buf
  · rw [h]
    rfl

theorem packetLegal_iff (p : Bytes) :
    packetLegal p = true ↔ 4 ≤ p.length ∧ p.length ≤ 259 ∧ p[3]? = some (BitVec.ofNat 8 (p.length - 4)) ∧
      (∃ c ∈ commandIds, p[0]? = some c) ∧ (p[1]? = some 0x20#8 ∨ p[1]? = some 0x00#8) := by
  simp only [packetLegal, Bool.and_eq_true, decide_eq_true_eq, and_assoc]

theorem genericPacket_legal {cmd : Byte} {args : Bytes} (hcmd : isCommand cmd = true) (hargs : argsOk args = true)
    (seq : Byte) : packetLegal (genericPacket cmd seq args) = true := by
  have hlen : (genericPacket cmd seq args).length - 4 = args.length := by
    rw [genericPacket_length, Nat.add_sub_cancel_left]
  refine (packetLegal_iff _).2
    ⟨?_, genericPacket_length_le hargs cmd seq, ?_, ⟨cmd, of_decide_eq_true hcmd, rfl⟩, .inl rfl⟩
  · rw [genericPacket_length]
    exact Nat.le_add_right 4 _
  · rw [genericPacket_lengthByte, hlen]

theorem rumblePacket_legal (seq : Byte) (m : RumbleParams) : packetLegal (rumblePacket seq m) = true :=
  (packetLegal_iff _).2 ⟨by simp, by simp, rfl, ⟨0x09#8, by decide, rfl⟩, .inr rfl⟩

theorem exec_packet_legal {i : Instr} {s t : State} {p : Bytes} (hwf : i.wf = true) (h : exec i s = .next t)
    (hp : t.response = some (.packet p)) : packetLegal p = true := by
  obtain ⟨cmd, args, rfl, hcmd, hargs⟩ | ⟨m, rfl⟩ := exec_packet_cases_of_wf hwf h hp
  · exact genericPacket_legal hcmd hargs _
  · exact rumblePacket_legal _ m

theorem responseOf_inputReport {i : Instr} {q : Byte} {f : InputReport} (h : responseOf i q = .inputReport f) :
    ∃ buf, decodeInput buf = .inputReport f := by
  cases i
  case rptDec buf => exact ⟨buf, h⟩
  case rptInput rest => exact ⟨0x20#8 :: rest, h⟩
  case sysDec | rptSystem => exact absurd h (decodeSystem_ne_inputReport _ f)
  case cmdBuild cmd args =>
    rw [responseOf] at h
    split at h <;> cases h
  all_goals cases h

/-- A response is a packet, or an INPUT result, or of a kind every value of which is legal. -/
theorem exec_legal {i : Instr} {s t : State} (hwf : i.wf = true) (h : exec i s = .next t) : stateLegal t = true := by
  have hresp : t.response = some (responseOf i s.seq) := by rw [eq_of_exec h]
  rw [stateLegal, hresp]
  cases hr : responseOf i s.seq
  case packet p => exact exec_packet_legal hwf h (hresp.trans (congrArg some hr))
  case inputReport f =>
    obtain ⟨buf, hbuf⟩ := responseOf_inputReport hr
    exact hbuf ▸ decodeInput_legal buf
  all_goals rfl

/-- Settles O41: an idle step keeps the state, a reset leaves no response, and what decodes is well-formed. -/
theorem stepKeepsResponsesLegal : Obligations.StepKeepsResponsesLegal := by
  intro s t hs h
  obtain ⟨-, rfl⟩ | ⟨rest, -, rfl⟩ | ⟨c, rest, i, -, hd, hexec⟩ := step_cases h
  · exact hs
  · rfl
  · exact exec_legal (decode_canonical hd).1 hexec

end Sys2Proof.Machine
end

section
/-! The host's use of the block: one request asked and served, one packet built and written (43_host_session.md R172 and
R184). -/

namespace Sys2Proof.Session

open Sys2Proof.Machine Sys2Proof.Safety

theorem andThen_next_iff {σ τ : Type} {o : Host.Outcome σ Fault Refusal} {f : σ → Host.Outcome τ Fault Refusal} {t : τ} :
    andThen o f = .next t ↔ ∃ s, o = .next s ∧ f s = .next t := by
  cases o <;> simp [andThen]

/-- The block after an instruction, with what it answers (`exec_eq`). -/
def answered (i : Instr) (b : State) : State :=
  { seq := seqAfter i b.seq, inputs := b.inputs, response := some (responseOf i b.seq) }

@[simp] theorem answered_response (i : Instr) (b : State) : (answered i b).response = some (responseOf i b.seq) := rfl

/-- A well-formed core instruction asked of the block runs there at once, before whatever else waits. -/
theorem ask_eq {i : Instr} (hwf : i.wf = true) (hcore : expandPseudo i = i) (sys : System) :
    ask i sys = .next { sys with block := answered i sys.block } := by
  rw [ask, step_present rfl, decode_encode hwf, hcore]
  exact congrArg (andThen · _) (exec_eq i sys.block)

/-- What the block answers at all was a report of legal length. -/
theorem bufOk_of_ask_rptClass {buf : Bytes} {sys t : System} (h : ask (.rptClass buf) sys = .next t) :
    bufOk buf = true := by
  obtain ⟨b, hstep, -⟩ := andThen_next_iff.1 h
  rw [step_present rfl] at hstep
  cases hd : decode (encode (.rptClass buf)) with
  | ok i => exact bufOk_of_presentable (decodeRequest_ok_iff.1 hd).1
  | rejected e =>
    rw [hd] at hstep
    cases hstep

theorem buildAndWrite_eq {i : Instr} (hwf : i.wf = true) (hcore : expandPseudo i = i) (sys : System) :
    buildAndWrite i sys =
      .next { block := answered i sys.block
              host := { sys.host with
                written := sys.host.written ++ builtPacket (some (responseOf i sys.block.seq)) } } := by
  rw [buildAndWrite, ask_eq hwf hcore]
  rfl

theorem buildAndWrite_rumbleBuild (p : RumbleParams) (sys : System) :
    buildAndWrite (.rumbleBuild p) sys =
      .next { block := answered (.rumbleBuild p) sys.block
              host := { sys.host with written := sys.host.written ++ [rumblePacket sys.block.seq p] } } :=
  buildAndWrite_eq (i := .rumbleBuild p) rfl rfl sys

theorem buildAndWrite_cmdBuild {cmd : Byte} {args : Bytes} (hcmd : isCommand cmd = true) (hargs : argsOk args = true)
    (sys : System) :
    buildAndWrite (.cmdBuild cmd args) sys =
      .next { block := answered (.cmdBuild cmd args) sys.block
              host := { sys.host with written := sys.host.written ++ [genericPacket cmd sys.block.seq args] } } := by
  rw [buildAndWrite_eq (i := .cmdBuild cmd args) hargs rfl, responseOf, if_pos hcmd, builtPacket]

theorem renderDisplay_eq (sys : System) :
    renderDisplay sys =
      .next { block := answered .seqPeek sys.block
              host := { sys.host with display := { sys.host.display with lastSeq := some sys.block.seq } } } := by
  rw [renderDisplay, ask_eq (i := .seqPeek) rfl rfl]
  rfl

/-! ### Entry to Running -/

theorem powerOffArgs_ok : argsOk Config.powerOffArgs = true :=
  decide_eq_true (Config.powerOffBytes.length_take_le Config.maxArgs)

theorem ledArgs_ok : argsOk Config.ledArgs = true :=
  decide_eq_true (Config.ledBytes.length_take_le Config.maxArgs)

theorem resetThroughPort_eq (sys : System) :
    resetThroughPort sys = .next { sys with block := resetBlock sys.block } := by
  rw [resetThroughPort, step_reset rfl]
  rfl

/-- The packets of the entry to Running, Power-off and LED (R174). -/
def entryPackets : List Bytes :=
  [genericPacket 0x05#8 0x00#8 Config.powerOffArgs, genericPacket 0x0a#8 0x01#8 Config.ledArgs]

theorem enterRunning_eq (sys : System) :
    enterRunning sys =
      .next { block := answered (.cmdBuild 0x0a#8 Config.ledArgs)
                (answered (.cmdBuild 0x05#8 Config.powerOffArgs) (resetBlock sys.block))
              host := { sys.host with phase := .running, written := sys.host.written ++ entryPackets } } := by
  rw [enterRunning, resetThroughPort_eq, andThen, buildAndWrite_cmdBuild (by decide) powerOffArgs_ok, andThen,
    buildAndWrite_cmdBuild (by decide) ledArgs_ok, andThen, List.append_assoc]
  rfl

theorem systemStep_endpointsResolved {sys : System} (h : sys.host.phase = .configuring) :
    systemStep .endpointsResolved sys = enterRunning sys := by
  rw [systemStep, h]
  rfl

/-- Settles O50: `enterRunning_eq`; the length bytes count the arguments, which are at most 255. -/
theorem entryToRunningSendsPowerThenLed : Obligations.EntryToRunningSendsPowerThenLed := by
  intro sys hphase
  exact ⟨_, _, _, (systemStep_endpointsResolved hphase).trans (enterRunning_eq sys), rfl, rfl,
    toNat_argc powerOffArgs_ok, toNat_argc ledArgs_ok, rfl⟩

/-! ### Draining and the failures -/

theorem systemStep_draining {e : Event} {sys : System} (h : sys.host.phase = .draining) (he : e ≠ .writeFailed) :
    systemStep e sys =
      .next { block := answered (.rumbleBuild zeroRumble) sys.block
              host := { sys.host with
                phase := .exited, written := sys.host.written ++ [rumblePacket sys.block.seq zeroRumble] } } := by
  rw [systemStep, h]
  simp only [drainingStep, if_neg he, buildAndWrite_rumbleBuild, andThen]

theorem systemStep_writeFailed (sys : System) : systemStep .writeFailed sys = .fault .transportWriteFailure := by
  cases h : sys.host.phase <;> rw [systemStep, h] <;> rfl

/-- Settles O53: Draining builds and writes the zero rumble command; the fatal events are faults by definition. -/
theorem drainingStopsTheMotors : Obligations.DrainingStopsTheMotors := by
  refine ⟨fun e sys hphase he => ?_, fun sys hphase => ?_, systemStep_writeFailed⟩
  · exact ⟨_, systemStep_draining hphase he, rfl, rfl, toNat_add_one_eq_nextCount sys.block.seq⟩
  · rw [systemStep, hphase]
    rfl

end Sys2Proof.Session
end

section
/-! The exit gesture and the hold-timer (43_host_session.md R181). -/

namespace Sys2Proof.Session

open Sys2Proof.Machine Sys2Proof.Safety

/-- The gesture writes the hold-timer and nothing else. -/
theorem gesture_frame (now : Nat) (buttons : BitVec 15) (h : HostState) :
    gesture now buttons h = { h with holdSince := (gesture now buttons h).holdSince } := by
  unfold gesture
  split <;> rfl

@[simp] theorem gesture_phase (now : Nat) (buttons : BitVec 15) (h : HostState) :
    (gesture now buttons h).phase = h.phase := by rw [gesture_frame]

@[simp] theorem gesture_written (now : Nat) (buttons : BitVec 15) (h : HostState) :
    (gesture now buttons h).written = h.written := by rw [gesture_frame]

@[simp] theorem gesture_lastRumble (now : Nat) (buttons : BitVec 15) (h : HostState) :
    (gesture now buttons h).lastRumble = h.lastRumble := by rw [gesture_frame]

theorem gesture_held {buttons : BitVec 15} (hb : buttons.getLsbD 0 = true ∨ buttons.getLsbD 1 = true) (now : Nat)
    (h : HostState) : (gesture now buttons h).holdSince = some (h.holdSince.getD now) := by
  have hactive : (buttons.getLsbD (buttonIndex .select) || buttons.getLsbD (buttonIndex .start)) = true :=
    Bool.or_eq_true_iff.2 hb
  rw [gesture, if_pos hactive]

theorem gesture_released {buttons : BitVec 15} (h0 : buttons.getLsbD 0 = false) (h1 : buttons.getLsbD 1 = false)
    (now : Nat) (h : HostState) : (gesture now buttons h).holdSince = none := by
  have hb : ¬ (buttons.getLsbD (buttonIndex .select) || buttons.getLsbD (buttonIndex .start)) = true := by
    rw [Bool.not_eq_true, Bool.or_eq_false_iff]
    exact ⟨h0, h1⟩
  rw [gesture, if_neg hb]

/-- The hold-timer has run for the 2.0 seconds of R181. -/
def HoldExpired (now : Nat) (h : HostState) : Prop := ∃ start, h.holdSince = some start ∧ start + 2000 ≤ now

theorem checkHold_expired {now : Nat} {h : HostState} (he : HoldExpired now h) :
    checkHold now h = { h with phase := .draining } := by
  obtain ⟨start, hs, hle⟩ := he
  simp [checkHold, hs, holdToExit, hle]

theorem checkHold_not_expired {now : Nat} {h : HostState} (he : ¬ HoldExpired now h) : checkHold now h = h := by
  cases hs : h.holdSince with
  | none => rw [checkHold, hs]
  | some start =>
    have hle : ¬ start + holdToExit ≤ now := fun hle => he ⟨start, hs, hle⟩
    simp [checkHold, hs, hle]

/-- Looking at the hold-timer writes the phase and nothing else. -/
theorem checkHold_frame (now : Nat) (h : HostState) :
    checkHold now h = { h with phase := (checkHold now h).phase } := by
  by_cases he : HoldExpired now h
  · rw [checkHold_expired he]
  · rw [checkHold_not_expired he]

@[simp] theorem checkHold_written (now : Nat) (h : HostState) : (checkHold now h).written = h.written := by
  rw [checkHold_frame]

@[simp] theorem checkHold_lastRumble (now : Nat) (h : HostState) : (checkHold now h).lastRumble = h.lastRumble := by
  rw [checkHold_frame]

@[simp] theorem checkHold_holdSince (now : Nat) (h : HostState) : (checkHold now h).holdSince = h.holdSince := by
  rw [checkHold_frame]

theorem checkHold_phase_cases (now : Nat) (h : HostState) :
    (checkHold now h).phase = .draining ∨ (checkHold now h).phase = h.phase := by
  by_cases he : HoldExpired now h
  · exact .inl (by rw [checkHold_expired he])
  · exact .inr (by rw [checkHold_not_expired he])

theorem checkHold_draining_iff {h : HostState} (hphase : h.phase = .running) (now : Nat) :
    (checkHold now h).phase = .draining ↔ HoldExpired now h := by
  by_cases he : HoldExpired now h
  · simp [checkHold_expired he, he]
  · simp [checkHold_not_expired he, he, hphase]

theorem systemStep_running {sys : System} (h : sys.host.phase = .running) (e : Event) :
    systemStep e sys = runningStep e sys := by
  rw [systemStep, h]

/-- Settles O56: a poll without data is `noData`, which looks at the hold-timer and does nothing else. -/
theorem pollsWithoutDataLeaveTheBlock : Obligations.PollsWithoutDataLeaveTheBlock := by
  intro now sys hphase data hdata
  have hstep : systemStep (.poll now data) sys = noData now sys := by
    rw [systemStep_running hphase]
    simp only [List.mem_cons, List.not_mem_nil, or_false] at hdata
    obtain rfl | rfl := hdata <;> rfl
  refine ⟨_, hstep, rfl, checkHold_frame now sys.host, checkHold_draining_iff hphase now, ?_⟩
  exact hphase ▸ checkHold_phase_cases now sys.host

end Sys2Proof.Session
end

section
/-! One report in Running: classified, decoded, shown, answered with rumble, rendered (43_host_session.md R175 to R179). -/

namespace Sys2Proof.Session

open Sys2Proof.Machine Sys2Proof.Safety

/-- The system once the block has classified a report. -/
def reportClassed (buf : Bytes) (sys : System) : System := { sys with block := answered (.rptClass buf) sys.block }

theorem handleReport_eq {buf : Bytes} (hbuf : bufOk buf = true) (now : Nat) (sys : System) :
    handleReport now buf sys =
      andThen (dispatchReport now buf (classify buf) (reportClassed buf sys)) renderDisplay := by
  rw [handleReport, ask_eq (i := .rptClass buf) hbuf rfl]
  rfl

/-- The system with an INPUT report decoded and shown. -/
def inputShown (buf : Bytes) (f : InputReport) (sys : System) : System :=
  { block := answered (.rptDec buf) sys.block
    host := { sys.host with
      display := { sys.host.display with buttons := some f.buttons, numerics := some (f.profile, f.num) } } }

theorem dispatchReport_input {buf : Bytes} {f : InputReport} (hbuf : bufOk buf = true)
    (hdec : decodeInput buf = .inputReport f) (now : Nat) (sys : System) :
    dispatchReport now buf .input sys =
      andThen (rumbleFeedback f.axes (inputShown buf f sys)) fun t =>
        .next { t with host := gesture now f.buttons t.host } := by
  simp only [dispatchReport, ask_eq (i := .rptDec buf) hbuf rfl, andThen, answered_response, responseOf, hdec]
  rfl

/-! ### Rumble feedback -/

theorem rumbleFeedback_same {ax : AxisTuple} {sys : System} (h : sys.host.lastRumble = some (Config.derive ax)) :
    rumbleFeedback (some ax) sys = .next sys := by
  rw [rumbleFeedback, if_pos h]

theorem rumbleFeedback_changed {ax : AxisTuple} {sys : System} (h : sys.host.lastRumble ≠ some (Config.derive ax)) :
    rumbleFeedback (some ax) sys =
      .next { block := answered (.rumbleBuild (Config.derive ax)) sys.block
              host := { sys.host with
                lastRumble := some (Config.derive ax)
                written := sys.host.written ++ [rumblePacket sys.block.seq (Config.derive ax)] } } := by
  rw [rumbleFeedback, if_neg h, buildAndWrite_rumbleBuild]
  rfl

/-- Rumble feedback always completes, in the phase and with the hold-timer it found. -/
theorem rumbleFeedback_next (axes : Option AxisTuple) (sys : System) :
    ∃ t, rumbleFeedback axes sys = .next t ∧ t.host.phase = sys.host.phase ∧
      t.host.holdSince = sys.host.holdSince := by
  cases axes with
  | none => exact ⟨sys, rfl, rfl, rfl⟩
  | some ax =>
    by_cases h : sys.host.lastRumble = some (Config.derive ax)
    · exact ⟨sys, rumbleFeedback_same h, rfl, rfl⟩
    · exact ⟨_, rumbleFeedback_changed h, rfl, rfl⟩

/-! ### An INPUT report, whole -/

/-- The host after an INPUT report, from the host that rumble feedback left. -/
def hostAfterInput (now : Nat) (f : InputReport) (t : System) : HostState :=
  checkHold now { gesture now f.buttons t.host with
    display := { (gesture now f.buttons t.host).display with lastSeq := some t.block.seq } }

@[simp] theorem hostAfterInput_written (now : Nat) (f : InputReport) (t : System) :
    (hostAfterInput now f t).written = t.host.written := by simp [hostAfterInput]

@[simp] theorem hostAfterInput_lastRumble (now : Nat) (f : InputReport) (t : System) :
    (hostAfterInput now f t).lastRumble = t.host.lastRumble := by simp [hostAfterInput]

@[simp] theorem hostAfterInput_holdSince (now : Nat) (f : InputReport) (t : System) :
    (hostAfterInput now f t).holdSince = (gesture now f.buttons t.host).holdSince := by simp [hostAfterInput]

theorem hostAfterInput_draining_iff {t : System} (hphase : t.host.phase = .running) (now : Nat) (f : InputReport) :
    (hostAfterInput now f t).phase = .draining ↔ HoldExpired now (gesture now f.buttons t.host) :=
  checkHold_draining_iff (by simpa using hphase) now

theorem hostAfterInput_phase_cases (now : Nat) (f : InputReport) (t : System) :
    (hostAfterInput now f t).phase = .draining ∨ (hostAfterInput now f t).phase = t.host.phase :=
  (checkHold_phase_cases now _).imp_right (·.trans (gesture_phase now f.buttons t.host))

theorem typeByte_of_decodeInput {buf : Bytes} {f : InputReport} (h : decodeInput buf = .inputReport f) :
    buf[0]? = some 0x20#8 := by
  unfold decodeInput at h
  split at h
  case isTrue htype => exact htype
  case isFalse => cases h

theorem systemStep_report {buf : Bytes} {sys : System} (hphase : sys.host.phase = .running) (hne : buf ≠ [])
    (now : Nat) :
    systemStep (.poll now (some buf)) sys =
      andThen (handleReport now buf sys) fun t => .next { t with host := checkHold now t.host } := by
  rw [systemStep_running hphase]
  cases buf with
  | nil => exact absurd rfl hne
  | cons b rest => rfl

theorem systemStep_inputReport {now : Nat} {buf : Bytes} {f : InputReport} {sys t : System}
    (hphase : sys.host.phase = .running) (hbuf : bufOk buf = true) (hdec : decodeInput buf = .inputReport f)
    (hrumble : rumbleFeedback f.axes (inputShown buf f (reportClassed buf sys)) = .next t) :
    systemStep (.poll now (some buf)) sys =
      .next { block := answered .seqPeek t.block, host := hostAfterInput now f t } := by
  have htype := typeByte_of_decodeInput hdec
  have hne : buf ≠ [] := by
    rintro rfl
    cases htype
  have hclass : classify buf = .input := if_pos htype
  rw [systemStep_report hphase hne, handleReport_eq hbuf, hclass, dispatchReport_input hbuf hdec, hrumble]
  simp only [andThen, renderDisplay_eq]
  rfl

/-- Settles O51: the last-sent parameters decide between `rumbleFeedback_same` and `rumbleFeedback_changed`; the rest
of the report's handling neither writes nor issues. -/
theorem rumbleIsSentOnlyOnChange : Obligations.RumbleIsSentOnlyOnChange := by
  intro now buf sys f ax hphase hbuf hdec haxes
  by_cases h : sys.host.lastRumble = some (Config.derive ax)
  · have hrumble := rumbleFeedback_same (sys := inputShown buf f (reportClassed buf sys)) h
    have hstep := systemStep_inputReport (now := now) hphase hbuf hdec (haxes ▸ hrumble)
    exact ⟨_, hstep, (hostAfterInput_lastRumble ..).trans h, fun _ => ⟨hostAfterInput_written .., rfl⟩,
      fun hne => absurd h hne⟩
  · have hrumble := rumbleFeedback_changed (sys := inputShown buf f (reportClassed buf sys)) h
    have hstep := systemStep_inputReport (now := now) hphase hbuf hdec (haxes ▸ hrumble)
    exact ⟨_, hstep, hostAfterInput_lastRumble .., fun heq => absurd heq h,
      fun _ => ⟨hostAfterInput_written .., toNat_add_one_eq_nextCount sys.block.seq⟩⟩

/-- Settles O52: the gesture sets or cancels the hold-timer, which is then looked at; rumble feedback touches neither
the timer nor the phase. -/
theorem holdingSelectOrStartDrains : Obligations.HoldingSelectOrStartDrains := by
  intro now buf sys f hphase hbuf hdec
  obtain ⟨t, hrumble, htphase, hthold⟩ :=
    rumbleFeedback_next f.axes (inputShown buf f (reportClassed buf sys))
  have hrunning : t.host.phase = .running := htphase.trans hphase
  have hsince : t.host.holdSince = sys.host.holdSince := hthold
  refine ⟨_, systemStep_inputReport hphase hbuf hdec hrumble, fun hheld => ?_, fun h0 h1 => ?_⟩
  · have hhold := gesture_held hheld now t.host
    rw [hsince] at hhold
    refine ⟨by simpa using hhold, (hostAfterInput_draining_iff hrunning now f).trans ?_⟩
    simp [HoldExpired, hhold]
  · have hhold := gesture_released h0 h1 now t.host
    refine ⟨by simpa using hhold, ?_⟩
    obtain hdrain | hkeep := hostAfterInput_phase_cases now f t
    · rw [hostAfterInput_draining_iff hrunning, HoldExpired, hhold] at hdrain
      obtain ⟨start, hstart, -⟩ := hdrain
      cases hstart
    · exact hkeep.trans hrunning

end Sys2Proof.Session
end

section
/-! The written packets carry the sequence bytes 0, 1, 2, ... (43_host_session.md R176). -/

namespace Sys2Proof.Session

open Sys2Proof.Machine Sys2Proof.Safety

/-- Packets with the sequence bytes 0, 1, 2, ..., and the next byte. -/
def Numbered (ps : List Bytes) (next : Byte) : Prop :=
  ps.map (fun p => p[2]?) = (List.range ps.length).map (fun k => some (BitVec.ofNat 8 k)) ∧
    next = BitVec.ofNat 8 ps.length

theorem Numbered.append {ps : List Bytes} {next : Byte} {p : Bytes} (h : Numbered ps next) (hp : p[2]? = some next) :
    Numbered (ps ++ [p]) (next + 1) := by
  obtain ⟨hbytes, hnext⟩ := h
  subst hnext
  constructor
  · simp [hbytes, hp, List.range_succ]
  · simp [BitVec.ofNat_add]

/-- The session has reached Running, and its written packets are numbered up to the block's counter. -/
def Unbroken (sys : System) : Prop :=
  beforeRunning sys.host.phase = false ∧ Numbered sys.host.written sys.block.seq

theorem sequenceUnbroken_iff_written {sys : System} (h : beforeRunning sys.host.phase = true) :
    sequenceUnbroken sys = true ↔ sys.host.written = [] := by
  simp [sequenceUnbroken, h]

theorem sequenceUnbroken_iff_unbroken {sys : System} (h : beforeRunning sys.host.phase = false) :
    sequenceUnbroken sys = true ↔ Unbroken sys := by
  simp [sequenceUnbroken, Unbroken, Numbered, h]

theorem Unbroken.sequenceUnbroken {sys : System} (h : Unbroken sys) : sequenceUnbroken sys = true :=
  (sequenceUnbroken_iff_unbroken h.1).2 h

section
variable {sys t : System} (hs : Unbroken sys)
include hs

theorem Unbroken.checkHold (now : Nat) : Unbroken { sys with host := checkHold now sys.host } := by
  obtain ⟨hphase, hnum⟩ := hs
  constructor
  · obtain h | h := checkHold_phase_cases now sys.host <;> rw [h]
    · rfl
    · exact hphase
  · rwa [checkHold_written]

theorem Unbroken.gesture (now : Nat) (buttons : BitVec 15) :
    Unbroken { sys with host := gesture now buttons sys.host } := by
  rwa [gesture_frame]

theorem Unbroken.rumbleFeedback {axes : Option AxisTuple} (h : rumbleFeedback axes sys = .next t) : Unbroken t := by
  cases axes with
  | none => exact Host.Outcome.next.inj h ▸ hs
  | some ax =>
    by_cases hsame : sys.host.lastRumble = some (Config.derive ax)
    · rw [rumbleFeedback_same hsame] at h
      exact Host.Outcome.next.inj h ▸ hs
    · rw [rumbleFeedback_changed hsame] at h
      exact Host.Outcome.next.inj h ▸ ⟨hs.1, hs.2.append rfl⟩

theorem Unbroken.dispatchReport {now : Nat} {buf : Bytes} {c : ReportClass} (hbuf : bufOk buf = true)
    (h : dispatchReport now buf c sys = .next t) : Unbroken t := by
  cases c with
  | ignored => exact Host.Outcome.next.inj h ▸ hs
  | other => exact Host.Outcome.next.inj h ▸ hs
  | system =>
    simp only [Session.dispatchReport, ask_eq (i := .sysDec buf) hbuf rfl, andThen, answered_response, responseOf] at h
    split at h <;> exact Host.Outcome.next.inj h ▸ hs
  | input =>
    obtain hdec | hdec := decodeInput_cases buf
    · rw [dispatchReport_input hbuf hdec, andThen_next_iff] at h
      obtain ⟨u, hu, ht⟩ := h
      have hu' : Unbroken u := Unbroken.rumbleFeedback (sys := inputShown buf (inputFields buf) sys) hs hu
      exact Host.Outcome.next.inj ht ▸ hu'.gesture now _
    · simp only [Session.dispatchReport, ask_eq (i := .rptDec buf) hbuf rfl, andThen, answered_response, responseOf,
        hdec] at h
      exact Host.Outcome.next.inj h ▸ hs

theorem Unbroken.handleReport {now : Nat} {buf : Bytes} (h : handleReport now buf sys = .next t) : Unbroken t := by
  obtain ⟨u, hask, -⟩ := andThen_next_iff.1 h
  have hbuf := bufOk_of_ask_rptClass hask
  rw [handleReport_eq hbuf, andThen_next_iff] at h
  obtain ⟨v, hdispatch, hrender⟩ := h
  have hv : Unbroken v := Unbroken.dispatchReport (sys := reportClassed buf sys) hs hbuf hdispatch
  rw [renderDisplay_eq] at hrender
  exact Host.Outcome.next.inj hrender ▸ hv

theorem Unbroken.runningStep {e : Event} (h : runningStep e sys = .next t) : Unbroken t := by
  match e, h with
  | .poll now (some (b :: rest)), h =>
    obtain ⟨u, hreport, ht⟩ := andThen_next_iff.1 h
    exact Host.Outcome.next.inj ht ▸ (hs.handleReport hreport).checkHold now
  | .poll now (some []), h | .poll now none, h => exact Host.Outcome.next.inj h ▸ hs.checkHold now
  | .deviceMissing, h | .deviceFound, h | .endpointsResolved, h | .endpointUnresolved, h =>
    exact Host.Outcome.next.inj h ▸ hs

theorem Unbroken.drainingStep {e : Event} (hphase : sys.host.phase = .draining) (h : systemStep e sys = .next t) :
    Unbroken t := by
  have he : e ≠ .writeFailed := by
    rintro rfl
    rw [systemStep_writeFailed] at h
    cases h
  rw [systemStep_draining hphase he] at h
  exact Host.Outcome.next.inj h ▸ ⟨rfl, hs.2.append rfl⟩

end

/-- Entry to Running resets the counter and writes the first two packets. -/
theorem unbroken_of_enterRunning {sys t : System} (hwritten : sys.host.written = [])
    (h : enterRunning sys = .next t) : Unbroken t := by
  have hnone : Numbered [] 0x00#8 := ⟨rfl, rfl⟩
  have hboth : Numbered entryPackets (0x00#8 + 1 + 1) := (hnone.append rfl).append rfl
  rw [enterRunning_eq, hwritten] at h
  exact Host.Outcome.next.inj h ▸ ⟨rfl, hboth⟩

/-- Settles O48: nothing is written before the entry to Running, which numbers the first two packets; after it every
event keeps the numbering. -/
theorem sessionKeepsSequenceUnbroken : Obligations.SessionKeepsSequenceUnbroken := by
  intro e sys sys' hs h
  cases hphase : sys.host.phase with
  | connecting =>
    have hbefore : beforeRunning sys.host.phase = true := by rw [hphase]; rfl
    have hwritten := (sequenceUnbroken_iff_written hbefore).1 hs
    rw [systemStep, hphase] at h
    cases e
    case deviceFound =>
      cases h
      exact (sequenceUnbroken_iff_written (by rfl)).2 hwritten
    case deviceMissing =>
      cases h
      exact (sequenceUnbroken_iff_written hbefore).2 hwritten
    case writeFailed => cases h
    all_goals exact Host.Outcome.next.inj h ▸ hs
  | configuring =>
    have hbefore : beforeRunning sys.host.phase = true := by rw [hphase]; rfl
    have hwritten := (sequenceUnbroken_iff_written hbefore).1 hs
    rw [systemStep, hphase] at h
    cases e
    case endpointsResolved => exact (unbroken_of_enterRunning hwritten h).sequenceUnbroken
    case endpointUnresolved | writeFailed => cases h
    all_goals exact Host.Outcome.next.inj h ▸ hs
  | running =>
    have hunbroken := (sequenceUnbroken_iff_unbroken (by rw [hphase]; rfl)).1 hs
    rw [systemStep_running hphase] at h
    exact (hunbroken.runningStep h).sequenceUnbroken
  | draining =>
    have hunbroken := (sequenceUnbroken_iff_unbroken (by rw [hphase]; rfl)).1 hs
    exact (hunbroken.drainingStep hphase h).sequenceUnbroken
  | exited =>
    rw [systemStep, hphase] at h
    dsimp only at h
    split at h
    · cases h
    · exact Host.Outcome.next.inj h ▸ hs

/-- Settles O49: before the session nothing is written. -/
theorem sessionStartsUnbroken : Obligations.SessionStartsUnbroken :=
  ⟨(sequenceUnbroken_iff_written rfl).2 rfl, rfl⟩

end Sys2Proof.Session
end

section
/-! SEQ and the stream of issued values (10_state.md section 1, 40_sequence_counter.md). -/

namespace Sys2Proof.Machine

open Sys2Proof.Safety

theorem opInstr_seqPeek {r : Request} (h : r.op = 0x1#4) : opInstr r = .seqPeek := by
  simp [opInstr, h]

theorem exec_seqPeek (s : State) : exec .seqPeek s = .next { s with response := some (.seqOut s.seq) } :=
  exec_eq ..

/-- Settles O2: op 0x1 is SEQ.PEEK, whose next state `exec_seqPeek` gives. -/
theorem seqPeekReturnsAndKeeps : Obligations.SeqPeekReturnsAndKeeps := by
  refine ⟨fun r hr hop => ?_, exec_seqPeek⟩
  rw [decode_request hr, opInstr_seqPeek hop]

/-- Settles O3: both show SEQ, the peek by definition, the issuing instruction by `shownValue_responseOf`. -/
theorem peekForeshowsTheNextIssue : Obligations.PeekForeshowsTheNextIssue :=
  fun i s hi => ⟨_, _, exec_seqPeek s, exec_eq i s, rfl, shownValue_responseOf hi s.seq⟩

/-- Settles O32: `exec_eq`. -/
theorem everyInstructionAnswers : Obligations.EveryInstructionAnswers :=
  fun i s => ⟨_, _, exec_eq i s⟩

/-- Settles O34: `exec_eq` gives the response and the new SEQ as functions of the instruction and of SEQ. -/
theorem responsesDependOnlyOnSeqAndRequest : Obligations.ResponsesDependOnlyOnSeqAndRequest :=
  fun i s u hseq => ⟨_, _, exec_eq i s, hseq ▸ exec_eq i u⟩

theorem toNat_seqAfter (i : Instr) (q : Byte) :
    (seqAfter i q).toNat = if issues i then nextCount q else q.toNat := by
  rw [seqAfter, apply_ite BitVec.toNat, toNat_add_one_eq_nextCount]

/-- Settles O5: SEQ after an instruction is `seqAfter`. -/
theorem onlyIssuingInstructionsAdvanceSeq : Obligations.OnlyIssuingInstructionsAdvanceSeq := by
  intro i s t h
  rw [eq_of_exec h]
  exact toNat_seqAfter i s.seq

/-- Settles O6: an idle step keeps SEQ, a reset zeroes it, an instruction leaves `seqAfter`. -/
theorem stepOnlyAdvancesOrResetsSeq : Obligations.StepOnlyAdvancesOrResetsSeq := by
  intro s t h
  obtain ⟨-, rfl⟩ | ⟨rest, hreset, rfl⟩ | ⟨c, rest, i, -, -, hexec⟩ := step_cases h
  · exact .inl rfl
  · exact .inr (.inr ⟨rfl, rest, hreset⟩)
  · rw [eq_of_exec hexec]
    cases hi : issues i with
    | true => exact .inr (.inl (by rw [toNat_seqAfter, if_pos hi]))
    | false => exact .inl (by simp [seqAfter, hi])

/-! ### Runs -/

theorem runInstrs_next (is : List Instr) (s : State) : ∃ t, runInstrs is s = .next t := by
  induction is generalizing s with
  | nil => exact ⟨s, rfl⟩
  | cons i rest ih =>
    rw [runInstrs, exec_eq]
    exact ih _

/-- The `k`-th value issued, counting from 0, is SEQ at the start and `k` more. -/
theorem issuedStream_eq_map_range (is : List Instr) (s : State) :
    issuedStream is s = (List.range (is.countP issues)).map fun k => some (s.seq + BitVec.ofNat 8 k) := by
  induction is generalizing s with
  | nil => rfl
  | cons i rest ih =>
    rw [issuedStream, exec_eq]
    dsimp only
    rw [ih]
    cases hi : issues i with
    | false => simp [hi, seqAfter]
    | true =>
      have hshift (k : Nat) : s.seq + 1#8 + BitVec.ofNat 8 k = s.seq + BitVec.ofNat 8 (k + 1) := by
        rw [Nat.add_comm k 1, BitVec.ofNat_add, BitVec.add_assoc]
      simp [hi, seqAfter, shownValue_responseOf hi, List.range_succ_eq_map, hshift]

theorem eq_of_issuedStream_getElem? {is : List Instr} {s : State} {k : Nat} {v : Option Byte}
    (h : (issuedStream is s)[k]? = some v) : v = some (s.seq + BitVec.ofNat 8 k) := by
  rw [issuedStream_eq_map_range, List.getElem?_map, Option.map_eq_some_iff] at h
  obtain ⟨k', hk, rfl⟩ := h
  obtain ⟨-, rfl⟩ := List.getElem?_eq_some_iff.1 hk
  rw [List.getElem_range]

theorem add_ofNat_ne_of_lt {j k : Nat} (q : Byte) (hjk : j < k) (hk : k < j + 256) :
    q + BitVec.ofNat 8 j ≠ q + BitVec.ofNat 8 k := by
  intro h
  have hmod : j % 256 = k % 256 := congrArg BitVec.toNat ((BitVec.add_right_inj q).1 h)
  omega

/-- Settles O4: the stream is `issuedStream_eq_map_range`. -/
theorem issuedStreamCountsModulo256 : Obligations.IssuedStreamCountsModulo256 := by
  intro is s
  refine ⟨runInstrs_next is s, by simp [issuedStream_eq_map_range], fun hseq k v hv => ?_, fun j k v w hjk hk hv hw => ?_⟩
  · refine ⟨BitVec.ofNat 8 k, ?_, BitVec.toNat_ofNat k 8⟩
    rw [eq_of_issuedStream_getElem? hv, hseq, BitVec.zero_add]
  · rw [eq_of_issuedStream_getElem? hv, eq_of_issuedStream_getElem? hw]
    exact fun h => add_ofNat_ne_of_lt s.seq hjk hk (Option.some.inj h)

end Sys2Proof.Machine
end

section
/-! The packets of the builds, of the pseudo-instructions and of the packet-form rows (30_encoding.md sections 3, 6 and 7,
41_packet_encoder.md). -/

namespace Sys2Proof.Machine

open Sys2Proof.Safety

theorem opInstr_cmdBuild {r : Request} (h : r.op = 0x2#4) : opInstr r = .cmdBuild r.cmd r.args := by
  simp [opInstr, h]

/-- An argument count that fits its byte is the length byte. -/
theorem genericPacket_eq_append {argc : Byte} {args : Bytes} (h : args.length = argc.toNat) (cmd seq : Byte) :
    genericPacket cmd seq args = [cmd, 0x20#8, seq, argc] ++ args := by
  rw [genericPacket, h, BitVec.ofNat_toNat, BitVec.setWidth_eq]

/-- What an issuing instruction with a generic packet for its response does, in the words of R120. -/
theorem exec_emits_generic {i : Instr} {cmd argc : Byte} {args : Bytes} {s : State} (hissues : issues i = true)
    (hresp : responseOf i s.seq = .packet (genericPacket cmd s.seq args)) (hargs : args.length = argc.toNat) :
    ∃ t, exec i s = .next t ∧ t.response = some (.packet ([cmd, 0x20#8, s.seq, argc] ++ args)) ∧
      t.seq.toNat = nextCount s.seq ∧ t.inputs = s.inputs := by
  refine ⟨_, exec_eq i s, ?_, ?_, rfl⟩
  · rw [hresp, genericPacket_eq_append hargs]
  · rw [toNat_seqAfter, if_pos hissues]

/-- Settles O7: op 0x2 is CMD.BUILD, which emits the generic packet of a known command. -/
theorem cmdBuildFramesEveryCommand : Obligations.CmdBuildFramesEveryCommand := by
  refine ⟨fun r hr hop => ?_, fun cmd argc args s hcmd hargs => ?_⟩
  · rw [decode_request hr, opInstr_cmdBuild hop]
  · have hc : isCommand cmd = true := decide_eq_true hcmd
    exact exec_emits_generic hc (if_pos hc) hargs

/-- Settles O8: `buildCommand_unknown`. -/
theorem cmdBuildRefusesUnknownCommand : Obligations.CmdBuildRefusesUnknownCommand :=
  fun _ args s hcmd => ⟨buildCommand_unknown (decide_eq_false hcmd) args s, rfl, rfl⟩

/-- Settles O13: both builds frame the same nine bytes, under the same id and the same sequence value. -/
theorem genericRumbleDiffersOnlyInFlags : Obligations.GenericRumbleDiffersOnlyInFlags :=
  fun m s => ⟨_, _, _, exec_rumbleBuild m s, rfl, exec_cmdBuild_known (by decide) _ s, rfl, rfl⟩

/-- Settles O14: RUMBLE emits the rumble packet with the default timing, the other names a generic packet each. -/
theorem pseudoInstructionsAreTheirExpansions : Obligations.PseudoInstructionsAreTheirExpansions := by
  refine ⟨fun lt rt ls rs s => ?_, fun argc args s hargs row hrow => ?_⟩
  · exact ⟨_, exec_eq _ s, rfl, toNat_add_one_eq_nextCount s.seq, rfl⟩
  · simp only [List.mem_cons, List.not_mem_nil, or_false] at hrow
    obtain rfl | rfl | rfl | rfl := hrow <;> exact exec_emits_generic rfl rfl hargs

/-- Settles O15: each packet-form row emits its form. -/
theorem packetFormsAreEmittedByBuilds : Obligations.PacketFormsAreEmittedByBuilds := by
  refine ⟨fun lt rt ls rs on off rep s => ?_, fun argc args s hargs row hrow => ?_⟩
  · exact ⟨_, exec_eq _ s, rfl, toNat_add_one_eq_nextCount s.seq, rfl⟩
  · simp only [List.mem_cons, List.not_mem_nil, or_false] at hrow
    obtain rfl | rfl | rfl | rfl | rfl := hrow <;> exact exec_emits_generic rfl rfl hargs

/-! ### The header of every packet -/

theorem responseOf_ne_packet {i : Instr} (hi : issues i = false) (q : Byte) (p : Bytes) : responseOf i q ≠ .packet p := by
  intro h
  cases i
  case cmdBuild cmd args =>
    have hcmd : ¬ isCommand cmd = true := Bool.eq_false_iff.1 hi
    rw [responseOf, if_neg hcmd] at h
    cases h
  case rumbleBuild | rumble | identify | power | auth | led | pktIdentify | pktPower | pktAuthenticate
      | pktRumbleGeneric | pktLed | pktRumble => cases hi
  case rptDec | rptInput => exact decodeInput_ne_packet _ p h
  case sysDec | rptSystem => exact decodeSystem_ne_packet _ p h
  all_goals cases h

/-- An instruction that answers a packet issues, and does nothing else. -/
theorem exec_of_packet {i : Instr} {s t : State} {p : Bytes} (h : exec i s = .next t)
    (hp : t.response = some (.packet p)) :
    issues i = true ∧ t = { seq := s.seq + 1, inputs := s.inputs, response := some (.packet p) } := by
  have ht := eq_of_exec h
  have hresp : responseOf i s.seq = .packet p := by
    rw [ht] at hp
    exact Option.some.inj hp
  have hi : issues i = true := by
    by_contra hi
    exact responseOf_ne_packet (Bool.eq_false_iff.2 hi) s.seq p hresp
  exact ⟨hi, by rw [ht, hresp, seqAfter, if_pos hi]⟩

/-- Settles O12: a packet is a generic one of a known command or a rumble packet; the header of each is written out. -/
theorem everyPacketCarriesLegalHeader : Obligations.EveryPacketCarriesLegalHeader := by
  intro i s t p hwf h hp
  have hseq : t.seq.toNat = nextCount s.seq := by
    rw [(exec_of_packet h hp).2, toNat_add_one_eq_nextCount]
  obtain ⟨cmd, args, rfl, hcmd, hargs⟩ | ⟨m, rfl⟩ := exec_packet_cases_of_wf hwf h hp
  · refine ⟨⟨cmd, of_decide_eq_true hcmd, rfl⟩, rfl, ?_, genericPacket_length_le hargs cmd s.seq, hseq⟩
    rw [genericPacket_length]
    exact Nat.le_add_right 4 _
  · exact ⟨⟨0x09#8, by decide, rfl⟩, rfl, by rw [rumblePacket_length]; decide, by rw [rumblePacket_length]; decide, hseq⟩

/-! ### Packets read back -/

/-- The form a generic packet of a known command decodes to is framed as that command. -/
theorem genericPacketInstr_frames {cmd : Byte} (h : isCommand cmd = true) (args : Bytes) :
    ∃ j, genericPacketInstr cmd args = .ok j ∧ ∀ s, exec j s = frameCommand cmd args s := by
  obtain rfl | rfl | rfl | rfl | rfl := (isCommand_iff cmd).1 h <;> exact ⟨_, rfl, fun _ => rfl⟩

theorem packetWhole_genericPacket {args : Bytes} (h : argsOk args = true) (cmd seq : Byte) :
    packetWhole (genericPacket cmd seq args) = true :=
  (packetWhole_cons ..).2 (toNat_argc h)

theorem decode_genericPacket {args : Bytes} (h : argsOk args = true) (cmd seq : Byte) :
    decode (.packet (genericPacket cmd seq args)) = genericPacketInstr cmd args :=
  decodePacket_whole (toNat_argc h) cmd 0x20#8 seq

/-- Settles O55: a generic packet decodes to its command's form, a rumble packet to the rumble form, and either has the
outcome of the instruction that emitted it. -/
theorem emittedPacketsReadBack : Obligations.EmittedPacketsReadBack := by
  refine ⟨fun i s t p rest hwf h hp => ?_, fun m s => ⟨_, _, exec_rumbleBuild m s, rfl, rfl, rfl⟩⟩
  rw [h, (exec_of_packet h hp).2]
  obtain ⟨cmd, args, rfl, hcmd, hargs⟩ | ⟨m, rfl⟩ := exec_packet_cases_of_wf hwf h hp
  · obtain ⟨j, hj, hexec⟩ := genericPacketInstr_frames hcmd args
    refine ⟨readPacket_append (packetWhole_genericPacket hargs cmd s.seq) rest, j, ?_, hexec s⟩
    rw [decode_genericPacket hargs, hj]
  · exact ⟨readPacket_append rfl rest, .pktRumble m, rfl, rfl⟩

/-! ### Packet images -/

theorem genericPacketInstr_unknown {id : Byte} (h : id ∉ commandIds) (payload : Bytes) :
    genericPacketInstr id payload = .rejected .packetForm := by
  simp only [commandIds, List.mem_cons, List.not_mem_nil, or_false, not_or] at h
  simp [genericPacketInstr, h]

theorem rumblePacketInstr_wrong_length {payload : Bytes} (h : payload.length ≠ 9) :
    rumblePacketInstr payload = .rejected .packetLength := by
  unfold rumblePacketInstr
  split
  · exact absurd rfl h
  · rfl

theorem decodePacket_not_whole {image : Bytes} (h : ∀ n : Byte, image[3]? = some n → image.length ≠ 4 + n.toNat) :
    decodePacket image = .rejected .packetLength := by
  refine if_neg fun hw => ?_
  obtain ⟨id, flags, seq, n, payload, rfl, hn⟩ := packetWhole_shape hw
  refine h n rfl ?_
  simp only [List.length_cons, hn]
  omega

/-- Settles O54: a whole packet decodes by its id and flags (`decodePacket_whole`), any other image is refused. -/
theorem packetImagesDecodeByForm : Obligations.PacketImagesDecodeByForm := by
  refine ⟨fun image h => decodePacket_not_whole h, fun id flags seq n payload hn => ?_, fun _ _ _ _ _ _ _ _ _ _ => rfl⟩
  have hwhole : decode (.packet ([id, flags, seq, n] ++ payload)) = _ := decodePacket_whole hn.symm id flags seq
  rw [hwhole]
  refine ⟨fun row hrow hid hflags => ?_, fun hid hflags => ?_, fun hid hflags => ?_, fun hid hflags hn9 => ?_, fun h20 h00 => ?_⟩
  · simp only [List.mem_cons, List.not_mem_nil, or_false] at hrow
    rw [if_pos hflags, hid]
    obtain rfl | rfl | rfl | rfl | rfl := hrow <;> rfl
  · rw [if_pos hflags, genericPacketInstr_unknown hid]
  · subst hflags
    rw [if_neg (by decide), if_neg fun hboth => hid hboth.2]
  · subst hid hflags
    rw [if_neg (by decide), if_pos ⟨rfl, rfl⟩, rumblePacketInstr_wrong_length]
    exact fun hlen => hn9 (BitVec.eq_of_toNat_eq (hn.symm.trans hlen))
  · rw [if_neg h20, if_neg fun hboth => h00 hboth.1]

end Sys2Proof.Machine
end

section
/-! The signed reading and the bits of a byte, in both directions (42_input_decoder.md, laws of S16 and of BIT.GET). -/

namespace Sys2Proof.Machine

open Sys2Proof.Safety

/-- The signed value and the unsigned pattern of two bytes agree modulo 0x10000. -/
theorem signedPair_emod (lo hi : Byte) : (signedPair lo hi % 65536).toNat = lo.toNat + 256 * hi.toNat := by
  rw [signedPair]
  split_ifs <;> omega

theorem signedPair_of_littleEndian {v : Int} (hmin : -32768 ≤ v) (hmax : v ≤ 32767) :
    signedPair (BitVec.ofNat 8 ((v % 65536).toNat % 256)) (BitVec.ofNat 8 ((v % 65536).toNat / 256)) = v := by
  rw [signedPair, BitVec.toNat_ofNat, BitVec.toNat_ofNat]
  split_ifs <;> omega

/-- Settles O17: S16.DEC answers `signedPair`, whose two inverses the lemmas above are. -/
theorem s16DecInvertsLittleEndian : Obligations.S16DecInvertsLittleEndian := by
  refine ⟨fun v s hmin hmax => ⟨_, exec_s16Dec _ _ s, ?_⟩, fun lo hi s => ⟨_, exec_s16Dec lo hi s, ?_, ?_⟩⟩
  · rw [s16_toInt, signedPair_of_littleEndian hmin hmax]
  all_goals
    apply BitVec.eq_of_toNat_eq
    rw [s16_toInt, signedPair_emod, BitVec.toNat_ofNat]
    omega

/-- The low `n` bits of a number, each with its weight, add up to its remainder. -/
theorem sum_testBit_eq_mod (x n : Nat) :
    ((List.range n).map fun k => if x.testBit k then 2 ^ k else 0).sum = x % 2 ^ n := by
  induction n with
  | zero => simp [Nat.mod_one]
  | succ n ih =>
    rw [List.range_succ, List.map_append, List.sum_append, ih, pow_succ, Nat.mod_mul]
    obtain h | h := Nat.mod_two_eq_zero_or_one (x / 2 ^ n) <;> simp [Nat.testBit_eq_decide_div_mod_eq, h]

/-- Settles O19: inside the buffer the bits are the byte's, and a byte is less than 2 ^ 8. -/
theorem eightBitGetsRecoverTheByte : Obligations.EightBitGetsRecoverTheByte := by
  intro buf i s h
  refine ⟨fun k => rptBit buf i k.toNat, fun k => exec_bitGet buf i k s, ?_⟩
  have hbit : ∀ k ∈ List.range 8, rptBit buf i (BitVec.ofNat 3 k).toNat = buf[i].toNat.testBit k := by
    intro k hk
    rw [rptBit_inside h, BitVec.toNat_ofNat, Nat.mod_eq_of_lt (List.mem_range.1 hk), BitVec.testBit_toNat]
  calc buf[i].toNat = buf[i].toNat % 2 ^ 8 := (Nat.mod_eq_of_lt buf[i].isLt).symm
    _ = ((List.range 8).map fun k => if buf[i].toNat.testBit k then 2 ^ k else 0).sum := (sum_testBit_eq_mod _ 8).symm
    _ = _ := congrArg List.sum (List.map_congr_left fun k hk => by simp only [hbit k hk])

end Sys2Proof.Machine
end

section
/-! The three operations on a report, and the rows they serve (42_input_decoder.md R142 to R150, 30_encoding.md section 4). -/

namespace Sys2Proof.Machine

theorem opInstr_rptClass {r : Request} (h : r.op = 0x6#4) : opInstr r = .rptClass r.buf := by
  simp [opInstr, h]

theorem opInstr_rptDec {r : Request} (h : r.op = 0x7#4) : opInstr r = .rptDec r.buf := by
  simp [opInstr, h]

theorem opInstr_sysDec {r : Request} (h : r.op = 0x8#4) : opInstr r = .sysDec r.buf := by
  simp [opInstr, h]

theorem exec_rptClass (buf : Bytes) (s : State) :
    exec (.rptClass buf) s = .next { s with response := some (.cls (classify buf)) } :=
  exec_eq ..

theorem exec_sysDec (buf : Bytes) (s : State) :
    exec (.sysDec buf) s = .next { s with response := some (decodeSystem buf) } :=
  exec_eq ..

theorem decodeInput_notInput {buf : Bytes} (h : buf[0]? ≠ some 0x20#8) : decodeInput buf = .notInput :=
  if_neg h

theorem decodeSystem_system {buf : Bytes} (h : buf[0]? = some 0x07#8) :
    decodeSystem buf = .systemReport (indicatorActive buf) :=
  if_pos h

theorem decodeSystem_notSystem {buf : Bytes} (h : buf[0]? ≠ some 0x07#8) : decodeSystem buf = .notSystem :=
  if_neg h

/-- The gate of RPT.DEC, both ways (R143, R149). -/
theorem decodeInput_gate (buf : Bytes) :
    (buf[0]? = some 0x20#8 ↔ ∃ f, decodeInput buf = .inputReport f) ∧
      (buf[0]? ≠ some 0x20#8 ↔ decodeInput buf = .notInput) := by
  by_cases h : buf[0]? = some 0x20#8
  · simp [h, decodeInput_input]
  · simp [h, decodeInput_notInput]

/-- The gate of SYS.DEC, both ways (R150). -/
theorem decodeSystem_gate (buf : Bytes) :
    (buf[0]? = some 0x07#8 ↔ ∃ ind, decodeSystem buf = .systemReport ind) ∧
      (buf[0]? ≠ some 0x07#8 ↔ decodeSystem buf = .notSystem) := by
  by_cases h : buf[0]? = some 0x07#8
  · simp [h, decodeSystem_system]
  · simp [h, decodeSystem_notSystem]

theorem classify_cons (t : Byte) (rest : Bytes) :
    classify (t :: rest) =
      if t = 0x20#8 then .input else if t = 0x07#8 then .system else if t = 0x03#8 then .ignored else .other := by
  simp [classify, rptRead]

theorem classify_of_typeByteUnknown {buf : Bytes} (h : typeByteUnknown buf = true) : classify buf = .other := by
  cases buf with
  | nil => rfl
  | cons t rest =>
    obtain ⟨hinput, hsystem, hignored⟩ := of_decide_eq_true h
    rw [classify_cons, if_neg hinput, if_neg hsystem, if_neg hignored]

theorem classify_eq_input_iff (buf : Bytes) : classify buf = .input ↔ buf[0]? = some 0x20#8 := by
  unfold classify rptRead
  split_ifs <;> simp_all

theorem classify_eq_system_iff (buf : Bytes) : classify buf = .system ↔ buf[0]? = some 0x07#8 := by
  unfold classify rptRead
  split_ifs <;> simp_all

/-- R150: byte 4 there and not zero. -/
theorem indicatorActive_iff (buf : Bytes) :
    indicatorActive buf = true ↔ ∃ x : Byte, buf[4]? = some x ∧ x.toNat ≠ 0 := by
  unfold indicatorActive rptRead indicatorOffset
  cases buf[4]? with
  | none => simp
  | some x => simp [← BitVec.toNat_inj (y := 0x00#8)]

/-- Settles O20: op 0x6 is RPT.CLASS, which answers `classify`. -/
theorem rptClassReadsOnlyTheTypeByte : Obligations.RptClassReadsOnlyTheTypeByte := by
  refine ⟨fun r hr hop => ?_, exec_rptClass [], fun t rest s => ?_⟩
  · rw [decode_request hr, opInstr_rptClass hop]
  · rw [exec_rptClass, classify_cons]

/-- Settles O21: op 0x7 is RPT.DEC, which answers `decodeInput`. -/
theorem rptDecGatesOnTheTypeByte : Obligations.RptDecGatesOnTheTypeByte := by
  refine ⟨fun r hr hop => ?_, fun buf s => ⟨fun h => ?_, fun h => ⟨_, exec_rptDec_input h s⟩⟩⟩
  · rw [decode_request hr, opInstr_rptDec hop]
  · rw [exec_rptDec, decodeInput_notInput h]

/-- Settles O27: op 0x8 is SYS.DEC, which answers `decodeSystem`. -/
theorem sysDecReadsTheWholeIndicatorByte : Obligations.SysDecReadsTheWholeIndicatorByte := by
  refine ⟨fun r hr hop => ?_, fun buf s => ⟨fun h => ?_, fun h => ⟨_, ?_, indicatorActive_iff buf⟩⟩⟩
  · rw [decode_request hr, opInstr_sysDec hop]
  · rw [exec_sysDec, decodeSystem_notSystem h]
  · rw [exec_sysDec, decodeSystem_system h]

/-- Settles O28: all three test byte 0 (`classify_eq_input_iff`, `decodeInput_gate`, `decodeSystem_gate`). -/
theorem reportOperationsAgree : Obligations.ReportOperationsAgree := by
  intro buf s
  refine ⟨_, _, _, exec_rptClass buf s, exec_rptDec buf s, exec_sysDec buf s, ?_⟩
  rw [ne_eq, ne_eq, classify_eq_input_iff, classify_eq_system_iff]
  obtain ⟨hinput, hnotInput⟩ := decodeInput_gate buf
  obtain ⟨hsystem, hnotSystem⟩ := decodeSystem_gate buf
  exact ⟨hinput, hnotInput, hsystem, hnotSystem⟩

/-- Settles O30: each row answers as its operation does on the whole report, whose type byte the row fixes. -/
theorem reportRowsRunTheirOperation : Obligations.ReportRowsRunTheirOperation := by
  refine ⟨fun rest s => ⟨_, exec_eq (.rptInput rest) s, rfl⟩,
    fun rest s => ⟨_, exec_eq (.rptSystem rest) s, indicatorActive_iff _⟩, fun rest s => exec_eq (.rptIgnored rest) s,
    fun buf s hwf => ?_⟩
  have hother := classify_of_typeByteUnknown (Bool.and_eq_true_iff.1 hwf).2
  exact hother ▸ exec_eq (.rptOther buf) s

end Sys2Proof.Machine
end

section
/-! The fields of an INPUT report and the bytes they need (30_encoding.md R88, 42_input_decoder.md R145 and R147). -/

namespace Sys2Proof.Machine

open Sys2Proof.Safety

/-- R145: a reading is there exactly when its two bytes are, and is their signed value. -/
theorem readAxis_toInt (buf : Bytes) (a : Axis) :
    (readAxis buf a).map BitVec.toInt =
      if axisOffset a + 1 < buf.length then
        some (signedPair (buf.getD (axisOffset a) 0) (buf.getD (axisOffset a + 1) 0)) else none := by
  rw [readAxis, rptRead16_eq]
  split_ifs with h
  · simp [s16_toInt, h, Nat.lt_of_succ_lt h]
  · rfl

/-- Settles O23: the profile byte and the readings are reads of the buffer at the offsets of the table. -/
theorem readingsFollowTheTable : Obligations.ReadingsFollowTheTable := by
  intro buf s h
  refine ⟨inputFields buf, exec_rptDec_input h s, rfl, fun row hrow => ?_⟩
  simp only [List.mem_cons, List.not_mem_nil, or_false] at hrow
  obtain rfl | rfl | rfl | rfl | rfl | rfl := hrow <;> exact readAxis_toInt buf _

/-- A button can be active only where its byte is inside the buffer. -/
theorem buttonPlace_lt_of_active {buf : Bytes} {k : Button}
    (h : (inputFields buf).buttons.getLsbD (buttonIndex k) = true) : (buttonPlace k).1 < buf.length := by
  obtain ⟨x, hx, -⟩ := (inputFields_buttons_iff buf k).1 h
  exact (List.getElem?_eq_some_iff.1 hx).1

/-- `buttonPlace_lt_of_active` by display index. -/
theorem offset_lt_of_active {buf : Bytes} {k offset : Nat}
    (hplace : ∃ button ∈ buttonOrder, buttonIndex button = k ∧ (buttonPlace button).1 = offset)
    (h : (inputFields buf).buttons.getLsbD k = true) : offset < buf.length := by
  obtain ⟨button, -, rfl, rfl⟩ := hplace
  exact buttonPlace_lt_of_active h

/-- Settles O25: each field's last byte must be inside the buffer. -/
theorem truncatedReportsLoseFieldsInOrder : Obligations.TruncatedReportsLoseFieldsInOrder := by
  intro buf s h
  refine ⟨inputFields buf, exec_rptDec_input h s, rptRead_isSome_iff buf 34, readAxis_isSome_iff buf .lt,
    readAxis_isSome_iff buf .rt, readAxis_isSome_iff buf .lx, readAxis_isSome_iff buf .ly, readAxis_isSome_iff buf .rx,
    readAxis_isSome_iff buf .ry, inputFields_axes_isSome_iff buf, ?_, ?_, ?_⟩
  · exact offset_lt_of_active (k := 2) (offset := 22) (by decide)
  · have hplaces : ∀ k ∈ [7, 8, 9, 10, 11, 12, 13, 14],
        ∃ button ∈ buttonOrder, buttonIndex button = k ∧ (buttonPlace button).1 = 5 := by
      decide
    exact fun k hk => offset_lt_of_active (hplaces k hk)
  · have hplaces : ∀ k ∈ [0, 1, 3, 4, 5, 6],
        ∃ button ∈ buttonOrder, buttonIndex button = k ∧ (buttonPlace button).1 = 4 := by
      decide
    exact fun k hk => offset_lt_of_active (hplaces k hk)

/-- A bit index of the button table fits three bits. -/
theorem buttonPlace_bit_lt (k : Button) : (buttonPlace k).2 < 8 := by
  cases k <;> decide

/-- A present reading is the pair's pattern. -/
theorem eq_s16_of_readAxis {buf : Bytes} {a : Axis} {v : Reading} (h : readAxis buf a = some v) :
    v = s16 (buf.getD (axisOffset a) 0) (buf.getD (axisOffset a + 1) 0) := by
  have hlen : axisOffset a + 1 < buf.length := (readAxis_isSome_iff buf a).1 (by rw [h]; rfl)
  rw [readAxis, rptRead16_eq, dif_pos hlen] at h
  simpa [hlen, Nat.lt_of_succ_lt hlen] using (Option.some.inj h).symm

/-- Settles O29: a button is a bit of the buffer, a reading the pattern of two of its bytes. -/
theorem rptDecAgreesWithThePrimitives : Obligations.RptDecAgreesWithThePrimitives := by
  intro buf s h
  refine ⟨inputFields buf, exec_rptDec_input h s, fun k => ?_, fun row hrow v hv => ?_⟩
  · rw [exec_bitGet, BitVec.toNat_ofNat, Nat.mod_eq_of_lt (buttonPlace_bit_lt k), inputFields, buttonField_getLsbD]
    rfl
  · have hread : readAxis buf row.2 = some v := by
      simp only [List.mem_cons, List.not_mem_nil, or_false] at hrow
      obtain rfl | rfl | rfl | rfl | rfl | rfl := hrow <;> exact hv
    rw [exec_s16Dec, eq_s16_of_readAxis hread]

end Sys2Proof.Machine
end

section
/-! Refusals, the set as a whole and the response record (60_exceptions.md, 44_operation_classes.md, 30_encoding.md section 2). -/

namespace Sys2Proof.Machine

open Sys2Proof.Safety

/-- The seven reserved codes of the table (R92). -/
def reservedInstrs : List Instr :=
  [.reserved9, .reservedA, .reservedB, .reservedC, .reservedD, .reservedE, .reservedF]

theorem responseOf_reserved {i : Instr} (h : i ∈ reservedInstrs) (q : Byte) :
    responseOf i q = .illegalOp ∧ issues i = false := by
  simp only [reservedInstrs, List.mem_cons, List.not_mem_nil, or_false] at h
  obtain rfl | rfl | rfl | rfl | rfl | rfl | rfl := h <;> exact ⟨rfl, rfl⟩

/-- An instruction that does not issue changes nothing but the response. -/
theorem exec_of_not_issues {i : Instr} (h : issues i = false) (s : State) :
    exec i s = .next { s with response := some (responseOf i s.seq) } := by
  simp [exec_eq, seqAfter, h]

theorem opInstr_reserved {r : Request} (h : 0x9 ≤ r.op.toNat) : opInstr r ∈ reservedInstrs := by
  unfold opInstr
  split
  case h_10 | h_11 | h_12 | h_13 | h_14 | h_15 | h_16 => simp [reservedInstrs]
  all_goals omega

/-- Settles O31: an `op` from 0x9 on decodes to a reserved row, and each such row answers ILLEGAL_OP. -/
theorem reservedCodesAreRefused : Obligations.ReservedCodesAreRefused := by
  refine ⟨fun r hr hop => ⟨_, opInstr_reserved hop, decode_request hr⟩, fun s i hi => ⟨?_, rfl⟩⟩
  obtain ⟨hresp, hissues⟩ := responseOf_reserved hi s.seq
  rw [exec_of_not_issues hissues, hresp]

theorem responseStatus_decodeInput (buf : Bytes) : responseStatus (decodeInput buf) = .ok := by
  obtain h | h := decodeInput_cases buf <;> rw [h] <;> rfl

theorem responseStatus_decodeSystem (buf : Bytes) : responseStatus (decodeSystem buf) = .ok := by
  obtain h | h := decodeSystem_cases buf <;> rw [h] <;> rfl

/-- The cause table of R193. -/
theorem responseStatus_responseOf (i : Instr) (q : Byte) :
    responseStatus (responseOf i q) =
      if reservedCode i then .illegalOp else if unknownCommand i then .illegalCmd else .ok := by
  cases i
  case cmdBuild cmd args =>
    cases h : isCommand cmd <;> simp [responseOf, h, responseStatus, reservedCode, unknownCommand]
  case rptDec | rptInput => exact responseStatus_decodeInput _
  case sysDec | rptSystem => exact responseStatus_decodeSystem _
  all_goals rfl

theorem issues_of_refused {i : Instr} (h : reservedCode i = true ∨ unknownCommand i = true) : issues i = false := by
  cases i
  case cmdBuild cmd args => simpa [reservedCode, unknownCommand, issues] using h
  case rumbleBuild | rumble | identify | power | auth | led | pktIdentify | pktPower | pktAuthenticate
      | pktRumbleGeneric | pktLed | pktRumble | seqNext => simp [reservedCode, unknownCommand] at h
  all_goals rfl

theorem unknownCommand_of_reservedCode {i : Instr} (h : reservedCode i = true) : unknownCommand i = false := by
  cases i
  case cmdBuild => simp [reservedCode] at h
  all_goals rfl

theorem responseRecord_status (r : Response) : (responseRecord r).status = statusCode (responseStatus r) := by
  cases r <;> rfl

theorem statusCode_ne_three (st : Status) : statusCode st ≠ 3#2 := by
  cases st <;> decide

/-- Settles O33: the status is the cause table's (`responseStatus_responseOf`), and what is refused does not issue. -/
theorem refusalsHaveTwoCausesAndNoEffect : Obligations.RefusalsHaveTwoCausesAndNoEffect := by
  intro i s t r h hr
  have ht := eq_of_exec h
  obtain rfl : responseOf i s.seq = r := by
    rw [ht] at hr
    exact Option.some.inj hr
  rw [responseRecord_status, responseStatus_responseOf]
  refine ⟨?_, ?_, fun hne => ?_, statusCode_ne_three _⟩
  · split_ifs <;> simp_all
  · split_ifs with hres
    · simp [unknownCommand_of_reservedCode hres]
    · simp_all
    · simp_all
  · have hcause : reservedCode i = true ∨ unknownCommand i = true := by
      by_contra hnone
      simp_all
    rw [ht, seqAfter, issues_of_refused hcause]
    rfl

/-! ### The set -/

theorem exec_coreOperation (i : Instr) (s : State) : exec (coreOperation i) s = exec i s := by
  cases i <;> rfl

theorem coreOperation_wf {i : Instr} (h : i.wf = true) : (coreOperation i).wf = true := by
  cases i
  case rptOther => exact (Bool.and_eq_true_iff.1 h).1
  all_goals exact h

theorem isCore_coreOperation (i : Instr) : isCore (coreOperation i) = true := by
  cases i <;> exact decide_eq_true rfl

theorem encode_coreOperation (i : Instr) : ∃ r : Request, encode (coreOperation i) = .request r := by
  cases i <;> exact ⟨_, rfl⟩

/-- Settles O35: `coreOperation`, by cases on the row. -/
theorem everyRowIsACoreOperation : Obligations.EveryRowIsACoreOperation :=
  fun i s h => ⟨exec_coreOperation i s, coreOperation_wf h, isCore_coreOperation i, encode_coreOperation i⟩

/-! ### The response record -/

/-- The valid bits of the readings, in numeric order. -/
theorem readingsValid_getLsbD (n : Readings) :
    ∀ row ∈ [(0, n.lt), (1, n.rt), (2, n.lx), (3, n.ly), (4, n.rx), (5, n.ry)],
      (readingsValid n).getLsbD row.1 = row.2.isSome := by
  simp [readingsValid, BitVec.getLsbD_ofBoolListLE]

theorem responseRecord_cls_iff (r : Response) (k : BitVec 2) :
    (responseRecord r).cls = some k ↔
      ∃ row ∈ [(ReportClass.other, 0#2), (.input, 1#2), (.system, 2#2), (.ignored, 3#2)], r = .cls row.1 ∧ k = row.2 := by
  cases r
  case cls c => cases c <;> simp [responseRecord, classCode, @eq_comm _ k]
  all_goals simp [responseRecord, statusRecord]

theorem responseRecord_pktLen_iff (r : Response) (n : Nat) :
    (responseRecord r).pktLen = some n ↔ ∃ p, r = .packet p ∧ n = p.length := by
  cases r
  case packet p => simp [responseRecord, eq_comm]
  all_goals simp [responseRecord, statusRecord]

/-- Settles O36: field by field, by cases on the response. -/
theorem responseRecordSaysWhatIsPresent : Obligations.ResponseRecordSaysWhatIsPresent := by
  intro r
  refine ⟨?_, ?_, ?_, responseRecord_pktLen_iff r, ?_, ?_, responseRecord_cls_iff r, ?_, ?_, ?_, ?_, ?_, ?_, fun f hf => ?_⟩
  case refine_12 =>
    subst hf
    exact ⟨rfl, rfl, rfl, rfl, rfl, rfl, _, rfl, readingsValid_getLsbD f.num⟩
  all_goals cases r <;> simp [responseRecord, statusRecord, responseStatus, statusCode]

/-! ### Steps and reset -/

/-- Settles O37: `step_present`, on an instruction that is well-formed since it decoded. -/
theorem stepRunsTheDecodedInstruction : Obligations.StepRunsTheDecodedInstruction := by
  intro s c rest i hinputs hdecode
  refine ⟨?_, (decode_canonical hdecode).1⟩
  rw [step_present hinputs, hdecode]

/-- Settles O38: a step refuses what does not decode, and decoding succeeds exactly on what can be presented. -/
theorem stepRefusesOnlyWhatCannotBePresented : Obligations.StepRefusesOnlyWhatCannotBePresented := by
  intro s c rest hinputs
  rw [step_present hinputs]
  refine ⟨fun hc => ?_, fun hc => ?_⟩
  · cases hd : decode c with
    | ok i => exact absurd ((decode_ok_iff c).1 ⟨i, hd⟩) (Bool.eq_false_iff.1 hc)
    | rejected e => exact ⟨e, rfl⟩
  · obtain ⟨i, hd⟩ := (decode_ok_iff c).2 hc
    rw [hd]
    exact ⟨_, exec_eq i _, rfl⟩

/-- Settles O39: `step_reset`, and SEQ.NEXT at the reset state. -/
theorem resetZeroesSeq : Obligations.ResetZeroesSeq :=
  ⟨fun _ _ hinputs => step_reset hinputs, _, exec_seqNext State.reset, rfl, rfl⟩

/-- Settles O40: `step_idle`. -/
theorem nothingHappensUnasked : Obligations.NothingHappensUnasked :=
  fun _ h => step_idle h

/-- Settles O42: the reset state by definition; with no response it is legal. -/
theorem resetStateIsLegal : Obligations.ResetStateIsLegal :=
  ⟨rfl, rfl⟩

/-! ### Requests and sample words -/

/-- The operation-select table reads the fields of R72 and no others. -/
theorem opInstr_congr {r q : Request} (hop : r.op = q.op) (hcmd : r.op = 0x2#4 → r.cmd = q.cmd ∧ r.args = q.args)
    (hmotors : r.op = 0x3#4 → r.motors = q.motors) (hs16 : r.op = 0x4#4 → r.lo = q.lo ∧ r.hi = q.hi)
    (hbit : r.op = 0x5#4 → r.byteIdx = q.byteIdx ∧ r.bitIdx = q.bitIdx)
    (hbuf : r.op ∈ [0x5#4, 0x6#4, 0x7#4, 0x8#4] → r.buf = q.buf) : opInstr r = opInstr q := by
  have hread {n : Nat} (hn : q.op.toNat = n) : r.op = BitVec.ofNat 4 n := by
    rw [hop, ← hn, BitVec.ofNat_toNat, BitVec.setWidth_eq]
  unfold opInstr
  rw [hop]
  split
  case h_3 hn => rw [(hcmd (hread hn)).1, (hcmd (hread hn)).2]
  case h_4 hn => rw [hmotors (hread hn)]
  case h_5 hn => rw [(hs16 (hread hn)).1, (hs16 (hread hn)).2]
  case h_6 hn => rw [hbuf (by simp [hread hn]), (hbit (hread hn)).1, (hbit (hread hn)).2]
  case h_7 hn | h_8 hn | h_9 hn => rw [hbuf (by simp [hread hn])]
  all_goals rfl

/-- Settles O45: presentable requests decode by `opInstr`, which `opInstr_congr` compares. -/
theorem unusedRequestFieldsAreIgnored : Obligations.UnusedRequestFieldsAreIgnored := by
  intro r q hr hq hop hcmd hmotors hs16 hbit hbuf
  refine ⟨_, decode_request hr, ?_⟩
  rw [decode_request hq, opInstr_congr hop hcmd hmotors hs16 hbit hbuf]

/-- Settles O46: closed words, evaluated; the buffers are shorter than MAX_REPORT_LEN whatever it is. -/
theorem sampleWordsDecode : Obligations.SampleWordsDecode := by
  unfold Obligations.SampleWordsDecode
  decide

end Sys2Proof.Machine
end

section
/-! The assembler's table (30_encoding.md section 7, R96 and R97). -/

namespace Sys2Proof.Machine

theorem byteOperand_eq_some_iff {o : AsmOperand} {b : Byte} : byteOperand o = some b ↔ o = .num b.toNat := by
  cases o with
  | num n =>
    have hval : n < 256 → (BitVec.ofNat 8 n = b ↔ n = b.toNat) := fun hn => by
      rw [← BitVec.toNat_inj, BitVec.toNat_ofNat, Nat.mod_eq_of_lt hn]
    by_cases hn : n < 256
    · simp [byteOperand, hn, hval hn]
    · simp [byteOperand, hn]
      omega
  | buf bs => simp [byteOperand]

/-- Operands are read as bytes exactly when they write those bytes. -/
theorem byteOperands_eq_some_iff {os : List AsmOperand} {bs : Bytes} : byteOperands os = some bs ↔ os = byteNums bs := by
  induction os generalizing bs with
  | nil => cases bs <;> simp [byteOperands, byteNums]
  | cons o rest ih =>
    simp only [byteOperands, Option.bind_eq_some_iff, Option.map_eq_some_iff, byteOperand_eq_some_iff, ih]
    cases bs <;> simp [byteNums]

theorem argOperands_eq_some_iff {os : List AsmOperand} {args : Bytes} :
    argOperands os = some args ↔ argsOk args = true ∧ os = byteNums args := by
  simp only [argOperands, Option.bind_eq_some_iff, byteOperands_eq_some_iff, Option.ite_none_right_eq_some,
    Option.some.injEq]
  constructor
  · rintro ⟨_, hos, hok, rfl⟩
    exact ⟨hok, hos⟩
  · rintro ⟨hok, hos⟩
    exact ⟨args, hos, hok, rfl⟩

theorem byteOperands_byteNums (bs : Bytes) : byteOperands (byteNums bs) = some bs :=
  byteOperands_eq_some_iff.2 rfl

theorem argOperands_byteNums {args : Bytes} (h : argsOk args = true) : argOperands (byteNums args) = some args :=
  argOperands_eq_some_iff.2 ⟨h, rfl⟩

/-! ### Each row of byte operands -/

theorem assemble_cmdBuild (cmd : Byte) {args : Bytes} (h : argsOk args = true) :
    assemble .cmdBuild (byteNums (cmd :: args)) = some (.cmdBuild cmd args) := by
  have hcmd : byteOperand (.num cmd.toNat) = some cmd := byteOperand_eq_some_iff.2 rfl
  have hargs : argOperands (args.map fun b => .num b.toNat) = some args := argOperands_byteNums h
  simp [byteNums, assemble, hcmd, hargs]

theorem assemble_rumbleBuild (p : RumbleParams) :
    assemble .rumbleBuild (byteNums [p.lt, p.rt, p.ls, p.rs, p.on, p.off, p.rep]) = some (.rumbleBuild p) := by
  rw [assemble, byteOperands_byteNums]

theorem assemble_s16Dec (lo hi : Byte) : assemble .s16Dec (byteNums [lo, hi]) = some (.s16Dec lo hi) := by
  rw [assemble, byteOperands_byteNums]

theorem assemble_rumble (lt rt ls rs : Byte) :
    assemble .rumble (byteNums [lt, rt, ls, rs]) = some (.rumble lt rt ls rs) := by
  rw [assemble, byteOperands_byteNums]

theorem assemble_identify {args : Bytes} (h : argsOk args = true) :
    assemble .identify (byteNums args) = some (.identify args) := by
  rw [assemble, argOperands_byteNums h, Option.map_some]

theorem assemble_power {args : Bytes} (h : argsOk args = true) :
    assemble .power (byteNums args) = some (.power args) := by
  rw [assemble, argOperands_byteNums h, Option.map_some]

theorem assemble_auth {args : Bytes} (h : argsOk args = true) :
    assemble .auth (byteNums args) = some (.auth args) := by
  rw [assemble, argOperands_byteNums h, Option.map_some]

theorem assemble_led {args : Bytes} (h : argsOk args = true) :
    assemble .led (byteNums args) = some (.led args) := by
  rw [assemble, argOperands_byteNums h, Option.map_some]

/-! ### Each row of a report buffer -/

theorem assemble_bitGet {buf : Bytes} (h : bufOk buf = true) (byteIdx bitIdx : Nat) :
    assemble .bitGet [.buf buf, .num byteIdx, .num bitIdx] =
      if bitIdx < 8 then some (.bitGet buf byteIdx (BitVec.ofNat 3 bitIdx)) else none := by
  simp [assemble, h]

theorem assemble_rptClass {buf : Bytes} (h : bufOk buf = true) : assemble .rptClass [.buf buf] = some (.rptClass buf) :=
  if_pos h

theorem assemble_rptDec {buf : Bytes} (h : bufOk buf = true) : assemble .rptDec [.buf buf] = some (.rptDec buf) :=
  if_pos h

theorem assemble_sysDec {buf : Bytes} (h : bufOk buf = true) : assemble .sysDec [.buf buf] = some (.sysDec buf) :=
  if_pos h

/-! ### The table as a whole -/

/-- What is written as the table says assembles to it. -/
theorem assemble_of_form {i : Instr} {m : Mnemonic} {os : List AsmOperand} (hwf : i.wf = true)
    (h : assemblerForm i = some (m, os)) : assemble m os = some i := by
  cases i <;> cases h
  case cmdBuild cmd args => exact assemble_cmdBuild cmd hwf
  case rumbleBuild p => exact assemble_rumbleBuild p
  case s16Dec lo hi => exact assemble_s16Dec lo hi
  case bitGet buf byteIdx bitIdx => rw [assemble_bitGet hwf, if_pos bitIdx.isLt, BitVec.ofNat_toNat, BitVec.setWidth_eq]
  case rptClass => exact assemble_rptClass hwf
  case rptDec => exact assemble_rptDec hwf
  case sysDec => exact assemble_sysDec hwf
  case rumble lt rt ls rs => exact assemble_rumble lt rt ls rs
  case identify => exact assemble_identify hwf
  case power => exact assemble_power hwf
  case auth => exact assemble_auth hwf
  case led => exact assemble_led hwf
  all_goals rfl

/-- What assembles is well-formed and written as the table says: by the arms of `assemble`, in order. -/
theorem form_of_assemble {i : Instr} {m : Mnemonic} {os : List AsmOperand} (h : assemble m os = some i) :
    i.wf = true ∧ assemblerForm i = some (m, os) := by
  unfold assemble at h
  split at h
  case h_3 c rest =>
    simp only [Option.bind_eq_some_iff, Option.map_eq_some_iff, byteOperand_eq_some_iff, argOperands_eq_some_iff] at h
    obtain ⟨cmd, rfl, args, ⟨hargs, rfl⟩, rfl⟩ := h
    exact ⟨hargs, rfl⟩
  case h_4 | h_5 | h_10 =>
    split at h
    case h_1 hbytes =>
      cases h
      exact ⟨rfl, by rw [byteOperands_eq_some_iff.1 hbytes]; rfl⟩
    case h_2 => cases h
  case h_6 b n k =>
    split_ifs at h with hok
    cases h
    exact ⟨hok.1, by simp [assemblerForm, Nat.mod_eq_of_lt hok.2]⟩
  case h_7 | h_8 | h_9 =>
    split_ifs at h with hok
    cases h
    exact ⟨hok, rfl⟩
  case h_11 | h_12 | h_13 | h_14 =>
    obtain ⟨args, hargs, rfl⟩ := Option.map_eq_some_iff.1 h
    obtain ⟨hok, rfl⟩ := argOperands_eq_some_iff.1 hargs
    exact ⟨hok, rfl⟩
  case h_1 | h_2 =>
    cases h
    exact ⟨rfl, rfl⟩
  all_goals cases h

/-- The mnemonics all of whose operands are bytes. -/
def byteMnemonics : List Mnemonic :=
  [.cmdBuild, .rumbleBuild, .s16Dec, .rumble, .identify, .power, .auth, .led]

theorem byteNums_of_form {i : Instr} {m : Mnemonic} {os : List AsmOperand} (hm : m ∈ byteMnemonics)
    (h : assemblerForm i = some (m, os)) : ∃ bs, os = byteNums bs := by
  cases i <;> cases h
  case bitGet | rptClass | rptDec | sysDec => exact absurd hm (by decide)
  case seqNext | seqPeek => exact ⟨[], rfl⟩
  all_goals exact ⟨_, rfl⟩

/-- A written byte is a number below 256. -/
theorem not_mem_byteNums {o : AsmOperand} (h : (∃ n, 256 ≤ n ∧ o = .num n) ∨ ∃ bs, o = .buf bs) (bs : Bytes) :
    o ∉ byteNums bs := by
  intro ho
  obtain ⟨b, -, rfl⟩ := List.mem_map.1 ho
  obtain ⟨n, hn, hnum⟩ | ⟨_, hbuf⟩ := h
  · have hb : b.toNat = n := AsmOperand.num.inj hnum
    omega
  · cases hbuf

/-- Settles O47: the table in both directions, its rows, and that a bad operand is in no list of written bytes. -/
theorem assemblerKeepsOperandOrder : Obligations.AssemblerKeepsOperandOrder := by
  refine ⟨fun m os i => ⟨form_of_assemble, fun h => assemble_of_form h.1 h.2⟩, rfl, rfl,
    fun cmd args hargs => assemble_cmdBuild cmd ((argsOk_iff args).2 hargs),
    fun lt rt ls rs on off rep => assemble_rumbleBuild ⟨lt, rt, ls, rs, on, off, rep⟩, assemble_s16Dec,
    fun buf byteIdx bitIdx hbuf => assemble_bitGet ((bufOk_iff buf).2 hbuf) byteIdx bitIdx, fun buf hbuf => ?_,
    assemble_rumble, fun args hargs row hrow => ?_, fun m hm os ⟨o, ho, hbad⟩ => ?_⟩
  · have hok := (bufOk_iff buf).2 hbuf
    exact ⟨assemble_rptClass hok, assemble_rptDec hok, assemble_sysDec hok⟩
  · have hok := (argsOk_iff args).2 hargs
    simp only [List.mem_cons, List.not_mem_nil, or_false] at hrow
    obtain rfl | rfl | rfl | rfl := hrow
    · exact assemble_identify hok
    · exact assemble_power hok
    · exact assemble_auth hok
    · exact assemble_led hok
  · rw [Option.eq_none_iff_forall_ne_some]
    intro i hi
    obtain ⟨bs, rfl⟩ := byteNums_of_form hm (form_of_assemble hi).2
    exact not_mem_byteNums hbad bs ho

end Sys2Proof.Machine
end
